-- ==== Sys2Proof/Word.lean ====
section
/-! DEFINITION. The widths of the values the spec treats as bits (spec/00_scope.md R4, R5). -/

namespace Sys2Proof

/-- `u8`: a general register, a timer, a byte of memory, the literal NN. -/
abbrev Byte := BitVec 8

/-- `u16`: an instruction word, PC, I, an entry of the call stack. -/
abbrev Word := BitVec 16

/-- `u4`: a nibble of the instruction word; the literal N. -/
abbrev Nibble := BitVec 4

/-- A register selector X or Y: every value 0..15 names a register (R63). -/
abbrev RegIdx := BitVec 4

/-- A key code 0x0..0xF (R8: the payload of a key event is a `u4`). -/
abbrev KeyCode := BitVec 4

/-- `u12`: the literal address NNN. -/
abbrev Literal12 := BitVec 12

end Sys2Proof
end

