-- ==== Sys2Proof/Config.lean ====
section
/-! DEFINITION. What the spec leaves OPEN (spec/00_scope.md R4): the two draws as free values, and the two
parameters of an implementation, FONT and STRICT_MODE, as data that State carries and nothing changes. -/

namespace Sys2Proof

/-- RND (R122, R177, D9): the byte of the `n`-th draw. A free value: it has no body, so nothing can be
proved of it (log entry 6). -/
opaque Config.randomByte : Nat → Byte

/-- KEY_SELECT (R152, D8): which of several pressed keys the `n`-th draw takes, as a position in the list of
pressed keys, reduced modulo its length. A free value: it has no body (log entry 7). -/
opaque Config.keyChoice : Nat → Nat

/-- The parameters R4 marks OPEN that belong to one implementation and not to one execution. -/
structure Params where
  /-- FONT: the 80 bytes that reset writes at addresses 0..79 (R4, R27, D11; log entry 5). -/
  font : Vector Byte 80
  /-- STRICT_MODE: an unrecognized word is a hard fault (R166, D17; log entry 4). -/
  strict : Bool
  deriving DecidableEq, Repr

end Sys2Proof
end

