-- ==== Sys2Proof/Machine/State.lean ====
section
/-! DEFINITION. The Machine State (spec/10_state.md R10), the causes and events of the interface
(spec/60_exceptions.md R167), the operations of the agents (spec/00_scope.md R7, R8), the outcomes that end a
run, and the state after reset (R25). -/

namespace Sys2Proof.Machine

/-- `MEM` as address and byte pairs: addresses strictly rising, and no pair whose byte is what the address
reads as when it is not listed (`Memory.wf`, log entry 22). -/
abbrev Memory := List Host.Cell

/-- `DISP[y][x]`: 32 rows of 64 one-bit pixels (R19). -/
abbrev Display := Vector (Vector Bool 64) 32

/-- The causes of R167, in the order of their codes. -/
inductive Cause where
  | none
  | syscallWarn
  | stackOverflow
  | stackUnderflow
  | unrecognized
  | fetchRange
  | memRange
  | unrecognizedStrict
  deriving DecidableEq, Repr

/-- The output events of R8. -/
inductive Event where
  /-- The `log` event with its cause and the instruction word. -/
  | log (cause : Cause) (word : Word)
  /-- The `tone` event of a timer step (R174). -/
  | tone
  deriving DecidableEq, Repr

/-- The atomic operations of R7 and R8, one constructor per input of the interface. -/
inductive Operation where
  /-- `step_instr`: one instruction step (R80). -/
  | instruction
  /-- `step_timer`: one timer step (R173). -/
  | timer
  /-- `reset` (R190). -/
  | reset
  /-- `load(bytes)` (R193). -/
  | load (bytes : List Byte)
  /-- `keydown(k)` (R175). -/
  | keydown (k : KeyCode)
  /-- `keyup(k)` (R175). -/
  | keyup (k : KeyCode)
  /-- `clear_dirty` (R176). -/
  | clearDirty
  /-- `pause` (R180). -/
  | pause
  /-- `resume` (R180). -/
  | resume
  deriving DecidableEq, Repr

/-- Everything the machine holds. The first eleven fields are the items of R10; the others are named in
INVENTORY.md, section State, and in the log. -/
structure State where
  /-- `MEM` -/
  mem : Memory
  /-- `V[0]` .. `V[15]` (R11); `V[15]` is VF (R12). -/
  v : Vector Byte 16
  /-- `I` (R13) -/
  i : Word
  /-- `PC` (R14) -/
  pc : Word
  /-- `STACK[0]` .. `STACK[15]` (R15) -/
  stack : Vector Word 16
  /-- `SP`, the number of valid entries: 0..16 in every reachable state (R16). -/
  sp : Nat
  /-- `DT` (R17) -/
  dt : Byte
  /-- `ST` (R17) -/
  st : Byte
  /-- `KEYS[0]` .. `KEYS[15]`, true = pressed (R18) -/
  keys : Vector Bool 16
  /-- `DISP[y][x]`, true = lit (R19) -/
  disp : Display
  /-- `DIRTY` (R20) -/
  dirty : Bool
  /-- FONT and STRICT_MODE (R4): no operation changes them. -/
  params : Params
  /-- The model's own: how many draws (R122, R152) have been made (log entries 6 and 7). -/
  draws : Nat
  /-- The events the last operation emitted, in order (R8; log entry 3). -/
  events : List Event
  /-- The scheduler's condition `paused` (R180; log entry 9). -/
  paused : Bool
  /-- The model's own: the operations that come before the next plain instruction step (log entry 1). -/
  script : List Operation
  deriving DecidableEq, Repr

/-- The hard faults (R165, R166): the machine stops, nothing was written. -/
inductive Fault where
  /-- FETCH_RANGE with PC: raised by an instruction step with `PC > 4094` (R47). Safe: the spec forbids the
  access and gives it no value. -/
  | fetchRange (pc : Word)
  /-- MEM_RANGE with the word and I: raised by draw-sprite, store-bcd, store-registers and load-registers when
  a byte they would touch is above 4095 (R47). Safe: as for `fetchRange`. -/
  | memRange (word i : Word)
  /-- UNRECOGNIZED_STRICT with the word: raised in strict mode by a word no row matches (R166). Safe: it is the
  outcome the spec gives. -/
  | unrecognizedStrict (word : Word)
  deriving DecidableEq, Repr

/-- Why an instruction has no meaning. Every instruction of this model has one. -/
inductive Refusal where
  /-- Raised by an arm of `exec` for an instruction without a meaning; no arm is left that raises it. Safe: the
  machine stops. -/
  | notModelled (mnemonic : String)
  deriving DecidableEq, Repr

/-- A step's outcome. -/
abbrev Result := Host.Outcome State Fault Refusal

/-- The machine right after reset (R25, R190). `params` has the conventional font (log entry 5) and the default
of STRICT_MODE (log entry 4); `paused` false is log entry 9; `draws` and `script` are log entries 8 and 1. -/
def State.reset : State where
  mem := []
  v := Vector.replicate 16 0
  i := 0
  pc := 512
  stack := Vector.replicate 16 0
  sp := 0
  dt := 0
  st := 0
  keys := Vector.replicate 16 false
  disp := Vector.replicate 32 (Vector.replicate 64 false)
  dirty := false
  params := { font := conventionalFont, strict := false }
  draws := 0
  events := []
  paused := false
  script := []

end Sys2Proof.Machine
end

