-- ==== Sys2Proof/Machine/Ops.lean ====
section
/-! DEFINITION. The named operations over memory, registers, PC, the call stack, the events and the faults.
There is no exception entry and no exception return on this hardware (spec/60_exceptions.md R170, R171): an
error either is a soft fault, `softFault`, or ends the run, `Fault`. -/

namespace Sys2Proof.Machine

/-! ### Memory (spec/20_memory.md R40, R46, R55) -/

/-- What an address reads as when nothing is listed there: the contents reset leaves, FONT at 0..79 and 0
above (R25, R46). -/
def Memory.unlisted (font : Vector Byte 80) (a : Nat) : Byte :=
  if h : a < 80 then font[a] else 0

/-- `MEM[a]`. -/
def Memory.read (font : Vector Byte 80) : Memory → Nat → Byte
  | [], a => Memory.unlisted font a
  | c :: m, a => if c.1 = a then c.2 else Memory.read font m a

/-- `c` at its place among the rising addresses of `m`. -/
def Memory.insert (c : Host.Cell) : Memory → Memory
  | [] => [c]
  | d :: m => if c.1 < d.1 then c :: d :: m else d :: Memory.insert c m

/-- `MEM[a] <- b`, keeping the canonical form: whatever stood at `a` goes, and `b` is listed unless it is what
`a` reads as unlisted. -/
def Memory.write (font : Vector Byte 80) (m : Memory) (a : Nat) (b : Byte) : Memory :=
  let others := m.filter fun c => c.1 != a
  if b = Memory.unlisted font a then others else Memory.insert (a, b) others

/-- The canonical form from address `lo` on: addresses strictly rising from `lo` and below 4096, and no
listed byte equal to what the address reads as unlisted. -/
def Memory.wfFrom (font : Vector Byte 80) (lo : Nat) : Memory → Bool
  | [] => true
  | c :: m =>
    decide (lo ≤ c.1) && decide (c.1 < 4096) && decide (c.2 ≠ Memory.unlisted font c.1) &&
      Memory.wfFrom font (c.1 + 1) m

/-- The canonical form of a memory. -/
def Memory.wf (font : Vector Byte 80) (m : Memory) : Bool := Memory.wfFrom font 0 m

/-- `MemRead(a, 1)` (R55). -/
def State.readByte (s : State) (a : Nat) : Byte := Memory.read s.params.font s.mem a

/-- `MemWrite(a, 1, b)` (R55). -/
def State.writeByte (s : State) (a : Nat) (b : Byte) : State :=
  { s with mem := Memory.write s.params.font s.mem a b }

/-- Byte writes at ascending addresses from `a` on. -/
def State.storeBytes (s : State) (a : Nat) : List Byte → State
  | [] => s
  | b :: bs => State.storeBytes (s.writeByte a b) (a + 1) bs

/-! ### Registers (spec/10_state.md R11, R13) -/

/-- `V[x]`. -/
def State.reg (s : State) (x : RegIdx) : Byte := s.v[x.toNat]

/-- `V[x] <- b`. -/
def State.setReg (s : State) (x : RegIdx) (b : Byte) : State := { s with v := s.v.set x.toNat b }

/-- The flag register VF (R12). -/
def flagReg : RegIdx := 15

/-- `I <- w`. -/
def State.setIndex (s : State) (w : Word) : State := { s with i := w }

/-- `DT <- b`. -/
def State.setDelay (s : State) (b : Byte) : State := { s with dt := b }

/-- `ST <- b`. -/
def State.setSound (s : State) (b : Byte) : State := { s with st := b }

/-- `DISP <- d`. -/
def State.setDisplay (s : State) (d : Display) : State := { s with disp := d }

/-- `DIRTY <- b`. -/
def State.setDirty (s : State) (b : Bool) : State := { s with dirty := b }

/-- `KEYS[k] <- b`. -/
def State.setKey (s : State) (k : KeyCode) (b : Bool) : State := { s with keys := s.keys.set k.toNat b }

/-- One draw has been made (log entries 6 and 7). -/
def State.countDraw (s : State) : State := { s with draws := s.draws + 1 }

/-- `V[k]` and its successors receive `bs` in order; a byte beyond `V[15]` has no register. -/
def State.setRegsFrom (s : State) (k : Nat) : List Byte → State
  | [] => s
  | b :: bs => State.setRegsFrom (s.setReg (BitVec.ofNat 4 k) b) (k + 1) bs

/-! ### Program counter (R14; spec/40_step_cycle.md R83) -/

/-- `PC <- w`. -/
def State.setPc (s : State) (w : Word) : State := { s with pc := w }

/-- The default PC law: `PC <- (PC + 2) mod 65536` (R83). -/
def State.advance (s : State) : State := s.setPc (s.pc + 2)

/-- The skip law: `PC <- (PC + 4) mod 65536` if the condition holds, else `(PC + 2) mod 65536`
(spec/42_skip.md R104). -/
def State.skipIf (cond : Bool) (s : State) : State := s.setPc (s.pc + if cond then 4 else 2)

/-! ### Call stack (R15, D4) -/

/-- Push: `STACK[SP] <- w; SP <- SP + 1`. Called with `SP < 16`. -/
def State.push (s : State) (w : Word) : State :=
  { s with stack := s.stack.setIfInBounds s.sp w, sp := s.sp + 1 }

/-- The entry a pop would take, `STACK[SP - 1]`. Called with `0 < SP`; for an SP above 16, which no run reaches
(R16), there is no such entry and it is 0 (log entry 13). -/
def State.top (s : State) : Word := s.stack[s.sp - 1]?.getD 0

/-- Pop: `SP <- SP - 1`; the entry keeps its value. Called with `0 < SP`. -/
def State.pop (s : State) : State := { s with sp := s.sp - 1 }

/-! ### Events and faults (spec/60_exceptions.md R160, R165 to R167) -/

/-- `emit e`. -/
def State.emit (s : State) (e : Event) : State := { s with events := s.events ++ [e] }

/-- An operation starts: its outputs are its own (log entry 3). -/
def State.clearEvents (s : State) : State := { s with events := [] }

/-- The numeric codes of R167. -/
def Cause.code : Cause → Nat
  | .none => 0
  | .syscallWarn => 1
  | .stackOverflow => 2
  | .stackUnderflow => 3
  | .unrecognized => 4
  | .fetchRange => 5
  | .memRange => 6
  | .unrecognizedStrict => 7

/-- The cause a hard fault carries (R167). -/
def Fault.cause : Fault → Cause
  | .fetchRange _ => .fetchRange
  | .memRange _ _ => .memRange
  | .unrecognizedStrict _ => .unrecognizedStrict

/-- A soft fault, or the warning of system-call: a log event, no state change, PC unchanged (R160, R164). -/
def softFault (cause : Cause) (word : Word) (s : State) : Result := .next (s.emit (.log cause word))

/-- The step of a word no row matches (R84, R163, R166). -/
def unrecognized (word : Word) (s : State) : Result :=
  if s.params.strict then .fault (.unrecognizedStrict word) else softFault .unrecognized word s

end Sys2Proof.Machine
end

