-- ==== Sys2Proof/Machine/Operands.lean ====
section
/-! DEFINITION. The operand forms: literals (spec/30_encoding.md R63), register blocks, the one data addressing
mode (spec/44_index_memory.md R136) with its range test (spec/20_memory.md R47), key lookup
(spec/46_keypad_timer.md R156) and the two draws. -/

namespace Sys2Proof.Machine

/-- `zext_16(NNN)`. -/
def literalAddress (nnn : Literal12) : Word := nnn.setWidth 16

/-- `zext_16(b)` of a register value. -/
def wideByte (b : Byte) : Word := b.setWidth 16

/-- The effective address `I + k`, over the integers (R136, D26). -/
def State.indexed (s : State) (k : Nat) : Nat := s.i.toNat + k

/-- Every address of `I .. I + n - 1` is at most 4095; true of the empty range (R47). -/
def State.reaches (s : State) (n : Nat) : Bool := n == 0 || decide (s.i.toNat + n ≤ 4096)

/-- An instruction with word `word` that touches the `n` bytes at I: the hard fault MEM_RANGE before any write
if one is above 4095, else the state `t` (R47, R165). -/
def State.ranged (s : State) (word : Word) (n : Nat) (t : State) : Result :=
  if s.reaches n then .next t else .fault (.memRange word s.i)

/-- `V[0] .. V[x]`, in order. -/
def State.regsUpTo (s : State) (x : RegIdx) : List Byte :=
  (List.range (x.toNat + 1)).map fun k => s.reg (BitVec.ofNat 4 k)

/-- The `n` bytes of memory at I, in order. -/
def State.bytesAtIndex (s : State) (n : Nat) : List Byte :=
  (List.range n).map fun k => s.readByte (s.indexed k)

/-- The hundreds, tens and ones digit of a byte (spec/44_index_memory.md R133). -/
def bcdDigits (a : Byte) : List Byte := [a / 100, (a / 10) % 10, a % 10]

/-- `pressed(v)`: `KEYS[v] = 1` for `v <= 15`, false above (R156). -/
def State.pressed (s : State) (b : Byte) : Bool := s.keys[b.toNat]?.getD false

/-- The pressed keys, lowest code first: the set S of R152. -/
def State.pressedKeys (s : State) : List (Fin 16) := (List.finRange 16).filter fun k => s.keys[k]

/-- KEY_SELECT of a list of pressed keys, for the `n`-th draw: no key of none, the key of one, and of several
the one the free value picks; every member can be picked (R152, D8; log entry 7). -/
def selectKey (n : Nat) : List (Fin 16) → Option (Fin 16)
  | [] => none
  | [k] => some k
  | k :: ks => some ((k :: ks).getD (Config.keyChoice n % (k :: ks).length) k)

/-- `draw RND` (R122): the byte of this execution. -/
def State.randomByte (s : State) : Byte := Config.randomByte s.draws

end Sys2Proof.Machine
end

