-- ==== Sys2Proof/Machine/Flags.lean ====
section
/-! DEFINITION. Every flag value that an instruction writes to VF (spec/10_state.md R12), and the write order
of the flag-writing arithmetic (spec/43_alu.md R123). The collision flag of draw-sprite is computed with the
drawing, in Display.lean. -/

namespace Sys2Proof.Machine

/-- A condition as the flag value 1 or 0. -/
def flagByte (cond : Bool) : Byte := if cond then 1 else 0

/-- add-registers: 1 if `b > 255 - a` (R117). -/
def carryFlag (a b : Byte) : Byte := flagByte (decide (b.toNat > 255 - a.toNat))

/-- sub-registers with `a = Vx`, `b = Vy`, and sub-reverse with the two exchanged: 1 if `a > b`, strictly
(R118, R120, C6). -/
def greaterFlag (a b : Byte) : Byte := flagByte (decide (a.toNat > b.toNat))

/-- shift-right: bit 0 of the value before the shift (R119). -/
def lowBitFlag (a : Byte) : Byte := flagByte (a.getLsbD 0)

/-- shift-left: bit 7 of the value before the shift, as 0 or 1 (R121, C7). -/
def highBitFlag (a : Byte) : Byte := flagByte (a.getLsbD 7)

/-- `V[15] <- flag`, then `V[x] <- result`, then the default PC law (R123). Both values were computed from the
state before the instruction (spec/40_step_cycle.md R85, D1; log entry 11). -/
def State.flagThenResult (s : State) (x : RegIdx) (flag result : Byte) : State :=
  ((s.setReg flagReg flag).setReg x result).advance

end Sys2Proof.Machine
end

