-- ==== Sys2Proof/Machine/Alu.lean ====
section
/-! DEFINITION. Loads, arithmetic, logic, shifts and random (spec/43_alu.md R110 to R123). -/

namespace Sys2Proof.Machine

/-- load-immediate: `V[X] <- NN` (R111). -/
def execLoadImmediate (x : RegIdx) (nn : Byte) (s : State) : Result :=
  .next (s.setReg x nn).advance

/-- add-immediate: `V[X] <- (V[X] + NN) mod 256`, no flag (R112). -/
def execAddImmediate (x : RegIdx) (nn : Byte) (s : State) : Result :=
  .next (s.setReg x (s.reg x + nn)).advance

/-- register-move: `V[X] <- V[Y]` (R113). -/
def execRegisterMove (x y : RegIdx) (s : State) : Result :=
  .next (s.setReg x (s.reg y)).advance

/-- register-or (R114). -/
def execRegisterOr (x y : RegIdx) (s : State) : Result :=
  .next (s.setReg x (s.reg x ||| s.reg y)).advance

/-- register-and (R115). -/
def execRegisterAnd (x y : RegIdx) (s : State) : Result :=
  .next (s.setReg x (s.reg x &&& s.reg y)).advance

/-- register-xor (R116). -/
def execRegisterXor (x y : RegIdx) (s : State) : Result :=
  .next (s.setReg x (s.reg x ^^^ s.reg y)).advance

/-- add-registers (R117, R123). -/
def execAddRegisters (x y : RegIdx) (s : State) : Result :=
  .next (s.flagThenResult x (carryFlag (s.reg x) (s.reg y)) (s.reg x + s.reg y))

/-- sub-registers (R118, R123). -/
def execSubRegisters (x y : RegIdx) (s : State) : Result :=
  .next (s.flagThenResult x (greaterFlag (s.reg x) (s.reg y)) (s.reg x - s.reg y))

/-- shift-right: Vx alone is shifted, Y is ignored (R119, R123, C15). -/
def execShiftRight (x _y : RegIdx) (s : State) : Result :=
  .next (s.flagThenResult x (lowBitFlag (s.reg x)) (s.reg x >>> 1))

/-- sub-reverse (R120, R123). -/
def execSubReverse (x y : RegIdx) (s : State) : Result :=
  .next (s.flagThenResult x (greaterFlag (s.reg y) (s.reg x)) (s.reg y - s.reg x))

/-- shift-left: Vx alone is shifted, Y is ignored (R121, R123, C15). -/
def execShiftLeft (x _y : RegIdx) (s : State) : Result :=
  .next (s.flagThenResult x (highBitFlag (s.reg x)) (s.reg x <<< 1))

/-- random-and: `V[X] <- r & NN` for the byte `r` drawn for this execution (R122; log entry 6). -/
def execRandomAnd (x : RegIdx) (nn : Byte) (s : State) : Result :=
  .next (s.setReg x (s.randomByte &&& nn)).countDraw.advance

end Sys2Proof.Machine
end

