-- ==== Sys2Proof/Syntax.lean ====
section
/-! DEFINITION. The instruction set: one constructor per row of spec/opcode_table.json, in the table's order
(spec/30_encoding.md R65). Operands are the fields of R61 that the row's format names (R62). -/

namespace Sys2Proof

/-- The 35 instructions. -/
inductive Instr where
  /-- 00E0 -/
  | clearScreen
  /-- 00EE -/
  | returnSub
  /-- 0nnn, any word of the family but 00E0 and 00EE -/
  | systemCall (nnn : Literal12)
  /-- 1nnn -/
  | jump (nnn : Literal12)
  /-- 2nnn -/
  | call (nnn : Literal12)
  /-- 3xnn -/
  | skipEqualImmediate (x : RegIdx) (nn : Byte)
  /-- 4xnn -/
  | skipNotEqualImmediate (x : RegIdx) (nn : Byte)
  /-- 5xy0 -/
  | skipEqualRegisters (x y : RegIdx)
  /-- 6xnn -/
  | loadImmediate (x : RegIdx) (nn : Byte)
  /-- 7xnn -/
  | addImmediate (x : RegIdx) (nn : Byte)
  /-- 8xy0 -/
  | registerMove (x y : RegIdx)
  /-- 8xy1 -/
  | registerOr (x y : RegIdx)
  /-- 8xy2 -/
  | registerAnd (x y : RegIdx)
  /-- 8xy3 -/
  | registerXor (x y : RegIdx)
  /-- 8xy4 -/
  | addRegisters (x y : RegIdx)
  /-- 8xy5 -/
  | subRegisters (x y : RegIdx)
  /-- 8xy6; Y stands in the word and is ignored -/
  | shiftRight (x y : RegIdx)
  /-- 8xy7 -/
  | subReverse (x y : RegIdx)
  /-- 8xyE; Y stands in the word and is ignored -/
  | shiftLeft (x y : RegIdx)
  /-- 9xy0 -/
  | skipNotEqualRegisters (x y : RegIdx)
  /-- Annn -/
  | setIndex (nnn : Literal12)
  /-- Bnnn -/
  | jumpWithOffset (nnn : Literal12)
  /-- Cxnn -/
  | randomAnd (x : RegIdx) (nn : Byte)
  /-- Dxyn -/
  | drawSprite (x y : RegIdx) (n : Nibble)
  /-- Ex9E -/
  | skipIfKeyPressed (x : RegIdx)
  /-- ExA1 -/
  | skipIfKeyNotPressed (x : RegIdx)
  /-- Fx07 -/
  | getDelayTimer (x : RegIdx)
  /-- Fx0A -/
  | waitForKey (x : RegIdx)
  /-- Fx15 -/
  | setDelayTimer (x : RegIdx)
  /-- Fx18 -/
  | setSoundTimer (x : RegIdx)
  /-- Fx1E -/
  | addToIndex (x : RegIdx)
  /-- Fx29 -/
  | fontAddress (x : RegIdx)
  /-- Fx33 -/
  | storeBcd (x : RegIdx)
  /-- Fx55 -/
  | storeRegisters (x : RegIdx)
  /-- Fx65 -/
  | loadRegisters (x : RegIdx)
  deriving DecidableEq, Repr

/-- The mnemonic of the instruction's row in spec/opcode_table.json (the form name of R65). -/
def Instr.mnemonic : Instr → String
  | .clearScreen => "clear-screen"
  | .returnSub => "return"
  | .systemCall _ => "system-call"
  | .jump _ => "jump"
  | .call _ => "call"
  | .skipEqualImmediate _ _ => "skip-equal-immediate"
  | .skipNotEqualImmediate _ _ => "skip-not-equal-immediate"
  | .skipEqualRegisters _ _ => "skip-equal-registers"
  | .loadImmediate _ _ => "load-immediate"
  | .addImmediate _ _ => "add-immediate"
  | .registerMove _ _ => "register-move"
  | .registerOr _ _ => "register-or"
  | .registerAnd _ _ => "register-and"
  | .registerXor _ _ => "register-xor"
  | .addRegisters _ _ => "add-registers"
  | .subRegisters _ _ => "sub-registers"
  | .shiftRight _ _ => "shift-right"
  | .subReverse _ _ => "sub-reverse"
  | .shiftLeft _ _ => "shift-left"
  | .skipNotEqualRegisters _ _ => "skip-not-equal-registers"
  | .setIndex _ => "set-index"
  | .jumpWithOffset _ => "jump-with-offset"
  | .randomAnd _ _ => "random-and"
  | .drawSprite _ _ _ => "draw-sprite"
  | .skipIfKeyPressed _ => "skip-if-key-pressed"
  | .skipIfKeyNotPressed _ => "skip-if-key-not-pressed"
  | .getDelayTimer _ => "get-delay-timer"
  | .waitForKey _ => "wait-for-key"
  | .setDelayTimer _ => "set-delay-timer"
  | .setSoundTimer _ => "set-sound-timer"
  | .addToIndex _ => "add-to-index"
  | .fontAddress _ => "font-address"
  | .storeBcd _ => "store-bcd"
  | .storeRegisters _ => "store-registers"
  | .loadRegisters _ => "load-registers"

end Sys2Proof
end

