-- ==== Sys2Proof/WellFormed.lean ====
section
/-! DEFINITION. Which terms of `Instr` are instructions of the hardware. Every field admits all its values
(spec/30_encoding.md R63), so the operand types carry all conditions but one: the literal of a system-call is
not one of the two exact words that stand before it in the dispatch order (R64, R66, R68). -/

namespace Sys2Proof

/-- The well-formed instructions. -/
def Instr.wellFormed : Instr → Bool
  | .systemCall nnn => decide (nnn ≠ 0x0E0) && decide (nnn ≠ 0x0EE)
  | .clearScreen | .returnSub => true
  | .jump _ | .call _ | .setIndex _ | .jumpWithOffset _ => true
  | .skipEqualImmediate _ _ | .skipNotEqualImmediate _ _ | .loadImmediate _ _ | .addImmediate _ _
  | .randomAnd _ _ => true
  | .skipEqualRegisters _ _ | .skipNotEqualRegisters _ _ => true
  | .registerMove _ _ | .registerOr _ _ | .registerAnd _ _ | .registerXor _ _ | .addRegisters _ _
  | .subRegisters _ _ | .shiftRight _ _ | .subReverse _ _ | .shiftLeft _ _ => true
  | .drawSprite _ _ _ => true
  | .skipIfKeyPressed _ | .skipIfKeyNotPressed _ | .getDelayTimer _ | .waitForKey _ | .setDelayTimer _
  | .setSoundTimer _ | .addToIndex _ | .fontAddress _ | .storeBcd _ | .storeRegisters _
  | .loadRegisters _ => true

end Sys2Proof
end

