-- ==== Sys2Proof/Decode.lean ====
section
/-! DEFINITION. The decoder (spec/30_encoding.md R61 to R68, R73), the encoder written from the same map, and
the map itself as the ordered list of mask and match pairs of R64 and R65. -/

namespace Sys2Proof

/-! ### Byte order (spec/20_memory.md R42): the byte at the lower address is bits 15:8 -/

/-- The word fetched from two consecutive bytes. -/
def wordOfBytes (hi lo : Byte) : Word := hi ++ lo

/-- The byte of a word that stands at the lower address. -/
def highByte (w : Word) : Byte := w.extractLsb' 8 8

/-- The byte of a word that stands at the higher address. -/
def lowByte (w : Word) : Byte := w.extractLsb' 0 8

/-! ### Fields (R61) -/

/-- n1, the major opcode: `w[15:12]`. -/
def fieldN1 (w : Word) : Nibble := w.extractLsb' 12 4

/-- X, the first register selector: `w[11:8]`. -/
def fieldX (w : Word) : RegIdx := w.extractLsb' 8 4

/-- Y, the second register selector: `w[7:4]`. -/
def fieldY (w : Word) : RegIdx := w.extractLsb' 4 4

/-- N (n4), the literal nibble or minor opcode: `w[3:0]`. -/
def fieldN (w : Word) : Nibble := w.extractLsb' 0 4

/-- NN, the literal byte or minor opcode: `w[7:0]`. -/
def fieldNN (w : Word) : Byte := w.extractLsb' 0 8

/-- NNN, the literal address: `w[11:0]`. -/
def fieldNNN (w : Word) : Literal12 := w.extractLsb' 0 12

/-! ### The decoder (R73) -/

/-- Why the decoder gives no instruction. -/
inductive Rejection where
  /-- The word matches no row of the opcode map (R67). -/
  | unrecognizedWord (w : Word)
  /-- Fewer than two bytes were given: no word (R60). -/
  | truncated
  deriving DecidableEq, Repr

/-- The 0-prefix family: two exact words before the catch-all (R64, R68). -/
def decodeSystem (w : Word) : Instr :=
  if w = 0x00E0 then .clearScreen
  else if w = 0x00EE then .returnSub
  else .systemCall (fieldNNN w)

/-- The 8-prefix family, by the minor opcode n4. -/
def decodeAlu (w : Word) : Except Rejection Instr :=
  let x := fieldX w
  let y := fieldY w
  if fieldN w = 0x0 then .ok (.registerMove x y)
  else if fieldN w = 0x1 then .ok (.registerOr x y)
  else if fieldN w = 0x2 then .ok (.registerAnd x y)
  else if fieldN w = 0x3 then .ok (.registerXor x y)
  else if fieldN w = 0x4 then .ok (.addRegisters x y)
  else if fieldN w = 0x5 then .ok (.subRegisters x y)
  else if fieldN w = 0x6 then .ok (.shiftRight x y)
  else if fieldN w = 0x7 then .ok (.subReverse x y)
  else if fieldN w = 0xE then .ok (.shiftLeft x y)
  else .error (.unrecognizedWord w)

/-- The 0xE-prefix family, by the minor opcode NN. -/
def decodeKey (w : Word) : Except Rejection Instr :=
  if fieldNN w = 0x9E then .ok (.skipIfKeyPressed (fieldX w))
  else if fieldNN w = 0xA1 then .ok (.skipIfKeyNotPressed (fieldX w))
  else .error (.unrecognizedWord w)

/-- The 0xF-prefix family, by the minor opcode NN. -/
def decodeExtended (w : Word) : Except Rejection Instr :=
  let x := fieldX w
  if fieldNN w = 0x07 then .ok (.getDelayTimer x)
  else if fieldNN w = 0x0A then .ok (.waitForKey x)
  else if fieldNN w = 0x15 then .ok (.setDelayTimer x)
  else if fieldNN w = 0x18 then .ok (.setSoundTimer x)
  else if fieldNN w = 0x1E then .ok (.addToIndex x)
  else if fieldNN w = 0x29 then .ok (.fontAddress x)
  else if fieldNN w = 0x33 then .ok (.storeBcd x)
  else if fieldNN w = 0x55 then .ok (.storeRegisters x)
  else if fieldNN w = 0x65 then .ok (.loadRegisters x)
  else .error (.unrecognizedWord w)

/-- The total decoder of R73: by the major opcode n1, then by the family. It reads nothing but the word
(spec/40_step_cycle.md R82). -/
def decode (w : Word) : Except Rejection Instr :=
  let n1 := fieldN1 w
  if n1 = 0x0 then .ok (decodeSystem w)
  else if n1 = 0x1 then .ok (.jump (fieldNNN w))
  else if n1 = 0x2 then .ok (.call (fieldNNN w))
  else if n1 = 0x3 then .ok (.skipEqualImmediate (fieldX w) (fieldNN w))
  else if n1 = 0x4 then .ok (.skipNotEqualImmediate (fieldX w) (fieldNN w))
  else if n1 = 0x5 then
    (if fieldN w = 0x0 then .ok (.skipEqualRegisters (fieldX w) (fieldY w)) else .error (.unrecognizedWord w))
  else if n1 = 0x6 then .ok (.loadImmediate (fieldX w) (fieldNN w))
  else if n1 = 0x7 then .ok (.addImmediate (fieldX w) (fieldNN w))
  else if n1 = 0x8 then decodeAlu w
  else if n1 = 0x9 then
    (if fieldN w = 0x0 then .ok (.skipNotEqualRegisters (fieldX w) (fieldY w)) else .error (.unrecognizedWord w))
  else if n1 = 0xA then .ok (.setIndex (fieldNNN w))
  else if n1 = 0xB then .ok (.jumpWithOffset (fieldNNN w))
  else if n1 = 0xC then .ok (.randomAnd (fieldX w) (fieldNN w))
  else if n1 = 0xD then .ok (.drawSprite (fieldX w) (fieldY w) (fieldN w))
  else if n1 = 0xE then decodeKey w
  else decodeExtended w

/-- Decode the first word of a byte sequence and give back the rest: total on any bytes, and every refusal has
a name. Every instruction is two bytes long (R60). -/
def decodeBytes : List Byte → Except Rejection (Instr × List Byte)
  | hi :: lo :: rest =>
    match decode (wordOfBytes hi lo) with
    | .ok i => .ok (i, rest)
    | .error r => .error r
  | _ => .error .truncated

/-! ### The encoder, from the formats of R62 -/

/-- Format A: major opcode and literal address. -/
def encodeA (n1 : Nibble) (nnn : Literal12) : Word := n1 ++ nnn

/-- Format I, and format F with the minor opcode as `nn`: major opcode, register and byte. -/
def encodeI (n1 : Nibble) (x : RegIdx) (nn : Byte) : Word := n1 ++ x ++ nn

/-- Format R, and format D with the sprite height as `n`: major opcode, two registers and a nibble. -/
def encodeR (n1 : Nibble) (x y : RegIdx) (n : Nibble) : Word := n1 ++ x ++ y ++ n

/-- The word of an instruction (R65). -/
def encode : Instr → Word
  | .clearScreen => 0x00E0
  | .returnSub => 0x00EE
  | .systemCall nnn => encodeA 0x0 nnn
  | .jump nnn => encodeA 0x1 nnn
  | .call nnn => encodeA 0x2 nnn
  | .skipEqualImmediate x nn => encodeI 0x3 x nn
  | .skipNotEqualImmediate x nn => encodeI 0x4 x nn
  | .skipEqualRegisters x y => encodeR 0x5 x y 0x0
  | .loadImmediate x nn => encodeI 0x6 x nn
  | .addImmediate x nn => encodeI 0x7 x nn
  | .registerMove x y => encodeR 0x8 x y 0x0
  | .registerOr x y => encodeR 0x8 x y 0x1
  | .registerAnd x y => encodeR 0x8 x y 0x2
  | .registerXor x y => encodeR 0x8 x y 0x3
  | .addRegisters x y => encodeR 0x8 x y 0x4
  | .subRegisters x y => encodeR 0x8 x y 0x5
  | .shiftRight x y => encodeR 0x8 x y 0x6
  | .subReverse x y => encodeR 0x8 x y 0x7
  | .shiftLeft x y => encodeR 0x8 x y 0xE
  | .skipNotEqualRegisters x y => encodeR 0x9 x y 0x0
  | .setIndex nnn => encodeA 0xA nnn
  | .jumpWithOffset nnn => encodeA 0xB nnn
  | .randomAnd x nn => encodeI 0xC x nn
  | .drawSprite x y n => encodeR 0xD x y n
  | .skipIfKeyPressed x => encodeI 0xE x 0x9E
  | .skipIfKeyNotPressed x => encodeI 0xE x 0xA1
  | .getDelayTimer x => encodeI 0xF x 0x07
  | .waitForKey x => encodeI 0xF x 0x0A
  | .setDelayTimer x => encodeI 0xF x 0x15
  | .setSoundTimer x => encodeI 0xF x 0x18
  | .addToIndex x => encodeI 0xF x 0x1E
  | .fontAddress x => encodeI 0xF x 0x29
  | .storeBcd x => encodeI 0xF x 0x33
  | .storeRegisters x => encodeI 0xF x 0x55
  | .loadRegisters x => encodeI 0xF x 0x65

/-- The two bytes of an instruction as the hardware stores them (R42, R60). -/
def encodeBytes (i : Instr) : List Byte := [highByte (encode i), lowByte (encode i)]

/-! ### The opcode map as R64 and R65 print it -/

/-- One row of the map: a word `w` matches it when `w &&& mask = bits`. -/
structure OpcodeRow where
  mnemonic : String
  mask : Word
  bits : Word
  build : Word → Instr

/-- "`w & mask == match`" of R64. -/
def OpcodeRow.matches (r : OpcodeRow) (w : Word) : Bool := w &&& r.mask == r.bits

/-- Rows 1 to 10 of R65. -/
def opcodeRowsLow : List OpcodeRow :=
  [⟨"clear-screen", 0xFFFF, 0x00E0, fun _ => .clearScreen⟩,
   ⟨"return", 0xFFFF, 0x00EE, fun _ => .returnSub⟩,
   ⟨"system-call", 0xF000, 0x0000, fun w => .systemCall (fieldNNN w)⟩,
   ⟨"jump", 0xF000, 0x1000, fun w => .jump (fieldNNN w)⟩,
   ⟨"call", 0xF000, 0x2000, fun w => .call (fieldNNN w)⟩,
   ⟨"skip-equal-immediate", 0xF000, 0x3000, fun w => .skipEqualImmediate (fieldX w) (fieldNN w)⟩,
   ⟨"skip-not-equal-immediate", 0xF000, 0x4000, fun w => .skipNotEqualImmediate (fieldX w) (fieldNN w)⟩,
   ⟨"skip-equal-registers", 0xF00F, 0x5000, fun w => .skipEqualRegisters (fieldX w) (fieldY w)⟩,
   ⟨"load-immediate", 0xF000, 0x6000, fun w => .loadImmediate (fieldX w) (fieldNN w)⟩,
   ⟨"add-immediate", 0xF000, 0x7000, fun w => .addImmediate (fieldX w) (fieldNN w)⟩]

/-- Rows 11 to 24 of R65. -/
def opcodeRowsMiddle : List OpcodeRow :=
  [⟨"register-move", 0xF00F, 0x8000, fun w => .registerMove (fieldX w) (fieldY w)⟩,
   ⟨"register-or", 0xF00F, 0x8001, fun w => .registerOr (fieldX w) (fieldY w)⟩,
   ⟨"register-and", 0xF00F, 0x8002, fun w => .registerAnd (fieldX w) (fieldY w)⟩,
   ⟨"register-xor", 0xF00F, 0x8003, fun w => .registerXor (fieldX w) (fieldY w)⟩,
   ⟨"add-registers", 0xF00F, 0x8004, fun w => .addRegisters (fieldX w) (fieldY w)⟩,
   ⟨"sub-registers", 0xF00F, 0x8005, fun w => .subRegisters (fieldX w) (fieldY w)⟩,
   ⟨"shift-right", 0xF00F, 0x8006, fun w => .shiftRight (fieldX w) (fieldY w)⟩,
   ⟨"sub-reverse", 0xF00F, 0x8007, fun w => .subReverse (fieldX w) (fieldY w)⟩,
   ⟨"shift-left", 0xF00F, 0x800E, fun w => .shiftLeft (fieldX w) (fieldY w)⟩,
   ⟨"skip-not-equal-registers", 0xF00F, 0x9000, fun w => .skipNotEqualRegisters (fieldX w) (fieldY w)⟩,
   ⟨"set-index", 0xF000, 0xA000, fun w => .setIndex (fieldNNN w)⟩,
   ⟨"jump-with-offset", 0xF000, 0xB000, fun w => .jumpWithOffset (fieldNNN w)⟩,
   ⟨"random-and", 0xF000, 0xC000, fun w => .randomAnd (fieldX w) (fieldNN w)⟩,
   ⟨"draw-sprite", 0xF000, 0xD000, fun w => .drawSprite (fieldX w) (fieldY w) (fieldN w)⟩]

/-- Rows 25 to 35 of R65. -/
def opcodeRowsHigh : List OpcodeRow :=
  [⟨"skip-if-key-pressed", 0xF0FF, 0xE09E, fun w => .skipIfKeyPressed (fieldX w)⟩,
   ⟨"skip-if-key-not-pressed", 0xF0FF, 0xE0A1, fun w => .skipIfKeyNotPressed (fieldX w)⟩,
   ⟨"get-delay-timer", 0xF0FF, 0xF007, fun w => .getDelayTimer (fieldX w)⟩,
   ⟨"wait-for-key", 0xF0FF, 0xF00A, fun w => .waitForKey (fieldX w)⟩,
   ⟨"set-delay-timer", 0xF0FF, 0xF015, fun w => .setDelayTimer (fieldX w)⟩,
   ⟨"set-sound-timer", 0xF0FF, 0xF018, fun w => .setSoundTimer (fieldX w)⟩,
   ⟨"add-to-index", 0xF0FF, 0xF01E, fun w => .addToIndex (fieldX w)⟩,
   ⟨"font-address", 0xF0FF, 0xF029, fun w => .fontAddress (fieldX w)⟩,
   ⟨"store-bcd", 0xF0FF, 0xF033, fun w => .storeBcd (fieldX w)⟩,
   ⟨"store-registers", 0xF0FF, 0xF055, fun w => .storeRegisters (fieldX w)⟩,
   ⟨"load-registers", 0xF0FF, 0xF065, fun w => .loadRegisters (fieldX w)⟩]

/-- The opcode map in dispatch order. -/
def opcodeRows : List OpcodeRow := opcodeRowsLow ++ opcodeRowsMiddle ++ opcodeRowsHigh

/-- First-match dispatch over the map (R64): the clear specification the decoder is held against. -/
def decodeByRows (w : Word) : Except Rejection Instr :=
  match opcodeRows.find? (fun r => r.matches w) with
  | some r => .ok (r.build w)
  | none => .error (.unrecognizedWord w)

/-! ### The host's question -/

/-- The instruction this decoder reads from the bits `w` of a table row: one 16-bit word, laid out big-endian;
bits above `nbits` are 0. -/
def decodeTableWord (nbits w : Nat) : Option Instr :=
  let word : Word := BitVec.ofNat 16 (w % 2 ^ nbits)
  match decodeBytes [highByte word, lowByte word] with
  | .ok (i, _) => some i
  | .error _ => none

end Sys2Proof
end

