-- ==== Sys2Proof/Machine/ControlFlow.lean ====
section
/-! DEFINITION. Control transfer (spec/41_control_flow.md R90 to R94). The word a log event carries is the
instruction's encoding (log entry 23). -/

namespace Sys2Proof.Machine

/-- return: the soft fault STACK_UNDERFLOW on an empty stack, else pop into PC (R90, R162). -/
def execReturnSub (s : State) : Result :=
  if s.sp = 0 then softFault .stackUnderflow (encode .returnSub) s
  else .next (s.pop.setPc s.top)

/-- system-call: a warning and nothing else; PC is unchanged (R91, R164). -/
def execSystemCall (nnn : Literal12) (s : State) : Result :=
  softFault .syscallWarn (encode (.systemCall nnn)) s

/-- jump: `PC <- NNN` (R92). -/
def execJump (nnn : Literal12) (s : State) : Result :=
  .next (s.setPc (literalAddress nnn))

/-- call: push `PC + 2` and go to NNN; with no free entry the soft fault STACK_OVERFLOW (R93, R161).
"Push requires pointer < 16" (spec/10_state.md R15). -/
def execCall (nnn : Literal12) (s : State) : Result :=
  if s.sp < 16 then .next ((s.push (s.pc + 2)).setPc (literalAddress nnn))
  else softFault .stackOverflow (encode (.call nnn)) s

/-- jump-with-offset: `PC <- NNN + V[0]`, kept to 16 bits (R94). -/
def execJumpWithOffset (nnn : Literal12) (s : State) : Result :=
  .next (s.setPc (literalAddress nnn + wideByte (s.reg 0)))

end Sys2Proof.Machine
end

