-- ==== Sys2Proof/Machine/Display.lean ====
section
/-! DEFINITION. Display instructions (spec/45_display.md R140 to R144). -/

namespace Sys2Proof.Machine

/-- The pixel in column `x` of row `y`; none beyond the bounds 64 and 32. -/
def pixelAt (d : Display) (x y : Nat) : Option Bool := do
  let row ← d[y]?
  row[x]?

/-- `DISP[y][x] <- b`; nothing beyond the bounds. -/
def setPixel (d : Display) (x y : Nat) (b : Bool) : Display :=
  if h : y < 32 then d.set y (d[y].setIfInBounds x b) else d

/-- The display with the collision seen so far. -/
structure Canvas where
  disp : Display
  collision : Bool
  deriving DecidableEq, Repr

/-- One sprite bit at (x, y): dropped beyond the bounds (R143); a bit that is 1 flips its pixel and collides
with one that was lit; a bit that is 0 does nothing (R141). -/
def drawPixel (x y : Nat) (bit : Bool) (c : Canvas) : Canvas :=
  match bit, pixelAt c.disp x y with
  | true, some old => { disp := setPixel c.disp x y (!old), collision := c.collision || old }
  | _, _ => c

/-- One sprite row: column `k` is bit `7 - k` of the byte (R142, D10; log entry 15). -/
def drawRow (x y : Nat) (b : Byte) (c : Canvas) : Canvas :=
  (List.range 8).foldl (fun c k => drawPixel (x + k) y (b.getLsbD (7 - k)) c) c

/-- The sprite rows from row `y` downwards in index, one byte a row (R142). -/
def drawRows (x : Nat) : Nat → List Byte → Canvas → Canvas
  | _, [], c => c
  | y, b :: bs, c => drawRows x (y + 1) bs (drawRow x y b c)

/-- clear-screen: every pixel 0; DIRTY and VF are not written (R140, D6; log entry 14). -/
def execClearScreen (s : State) : Result :=
  .next (s.setDisplay (Vector.replicate 32 (Vector.replicate 64 false))).advance

/-- draw-sprite: coordinates and sprite bytes are sampled first (R85), then the sprite is drawn, VF receives
the collision and DIRTY is set (R141). -/
def execDrawSprite (x y : RegIdx) (n : Nibble) (s : State) : Result :=
  let c := drawRows (s.reg x).toNat (s.reg y).toNat (s.bytesAtIndex n.toNat) ⟨s.disp, false⟩
  s.ranged (encode (.drawSprite x y n)) n.toNat
    (((s.setReg flagReg (flagByte c.collision)).setDisplay c.disp).setDirty true).advance

end Sys2Proof.Machine
end

