-- ==== Sys2Proof/Machine/IndexMemory.lean ====
section
/-! DEFINITION. Index register and memory instructions (spec/44_index_memory.md R130 to R136). -/

namespace Sys2Proof.Machine

/-- set-index: `I <- NNN` (R130). -/
def execSetIndex (nnn : Literal12) (s : State) : Result :=
  .next (s.setIndex (literalAddress nnn)).advance

/-- add-to-index: `I <- (I + V[X]) mod 65536`, no flag (R131). -/
def execAddToIndex (x : RegIdx) (s : State) : Result :=
  .next (s.setIndex (s.i + wideByte (s.reg x))).advance

/-- font-address: `I <- V[X] * 5`, of all 8 bits of V[X] (R132). -/
def execFontAddress (x : RegIdx) (s : State) : Result :=
  .next (s.setIndex (wideByte (s.reg x) * 5)).advance

/-- store-bcd: three digits at `I`, `I + 1`, `I + 2` (R133). -/
def execStoreBcd (x : RegIdx) (s : State) : Result :=
  s.ranged (encode (.storeBcd x)) 3 (s.storeBytes (s.indexed 0) (bcdDigits (s.reg x))).advance

/-- store-registers: `V[0] .. V[X]` at `I .. I + X`; I is unchanged (R134). -/
def execStoreRegisters (x : RegIdx) (s : State) : Result :=
  s.ranged (encode (.storeRegisters x)) (x.toNat + 1)
    (s.storeBytes (s.indexed 0) (s.regsUpTo x)).advance

/-- load-registers: `V[0] .. V[X]` from `I .. I + X`; I is unchanged (R135). -/
def execLoadRegisters (x : RegIdx) (s : State) : Result :=
  s.ranged (encode (.loadRegisters x)) (x.toNat + 1)
    (s.setRegsFrom 0 (s.bytesAtIndex (x.toNat + 1))).advance

end Sys2Proof.Machine
end

