-- ==== Sys2Proof/Machine/KeypadTimer.lean ====
section
/-! DEFINITION. Keypad and timer instructions (spec/46_keypad_timer.md R150 to R156). -/

namespace Sys2Proof.Machine

/-- skip-if-key-pressed (R150). -/
def execSkipIfKeyPressed (x : RegIdx) (s : State) : Result :=
  .next (s.skipIf (s.pressed (s.reg x)))

/-- skip-if-key-not-pressed (R151). -/
def execSkipIfKeyNotPressed (x : RegIdx) (s : State) : Result :=
  .next (s.skipIf (!s.pressed (s.reg x)))

/-- get-delay-timer: `V[X] <- DT` (R153). -/
def execGetDelayTimer (x : RegIdx) (s : State) : Result :=
  .next (s.setReg x s.dt).advance

/-- wait-for-key: with no key pressed nothing is written and PC stays; else the code of some pressed key
(R152; log entry 7). -/
def execWaitForKey (x : RegIdx) (s : State) : Result :=
  match selectKey s.draws s.pressedKeys with
  | none => .next s
  | some k => .next (s.setReg x (BitVec.ofNat 8 k.val)).countDraw.advance

/-- set-delay-timer: `DT <- V[X]` (R154). -/
def execSetDelayTimer (x : RegIdx) (s : State) : Result :=
  .next (s.setDelay (s.reg x)).advance

/-- set-sound-timer: `ST <- V[X]`; no tone from this step (R155). -/
def execSetSoundTimer (x : RegIdx) (s : State) : Result :=
  .next (s.setSound (s.reg x)).advance

end Sys2Proof.Machine
end

