-- ==== Sys2Proof/Machine/Skip.lean ====
section
/-! DEFINITION. The four conditional skips on registers (spec/42_skip.md R100 to R104). -/

namespace Sys2Proof.Machine

/-- skip-equal-immediate (R100). -/
def execSkipEqualImmediate (x : RegIdx) (nn : Byte) (s : State) : Result :=
  .next (s.skipIf (s.reg x == nn))

/-- skip-not-equal-immediate (R101). -/
def execSkipNotEqualImmediate (x : RegIdx) (nn : Byte) (s : State) : Result :=
  .next (s.skipIf (s.reg x != nn))

/-- skip-equal-registers (R102). -/
def execSkipEqualRegisters (x y : RegIdx) (s : State) : Result :=
  .next (s.skipIf (s.reg x == s.reg y))

/-- skip-not-equal-registers (R103). -/
def execSkipNotEqualRegisters (x y : RegIdx) (s : State) : Result :=
  .next (s.skipIf (s.reg x != s.reg y))

end Sys2Proof.Machine
end

