-- ==== Sys2Proof/Machine/Dispatch.lean ====
section
/-! DEFINITION. One arm per instruction, in the order of spec/opcode_table.json (spec/30_encoding.md R65). -/

namespace Sys2Proof.Machine

def exec (i : Instr) (s : State) : Host.Outcome State Fault Refusal :=
  match i with
  | .clearScreen => Sys2Proof.Machine.execClearScreen s
  | .returnSub => Sys2Proof.Machine.execReturnSub s
  | .systemCall nnn => Sys2Proof.Machine.execSystemCall nnn s
  | .jump nnn => Sys2Proof.Machine.execJump nnn s
  | .call nnn => Sys2Proof.Machine.execCall nnn s
  | .skipEqualImmediate x nn => Sys2Proof.Machine.execSkipEqualImmediate x nn s
  | .skipNotEqualImmediate x nn => Sys2Proof.Machine.execSkipNotEqualImmediate x nn s
  | .skipEqualRegisters x y => Sys2Proof.Machine.execSkipEqualRegisters x y s
  | .loadImmediate x nn => Sys2Proof.Machine.execLoadImmediate x nn s
  | .addImmediate x nn => Sys2Proof.Machine.execAddImmediate x nn s
  | .registerMove x y => Sys2Proof.Machine.execRegisterMove x y s
  | .registerOr x y => Sys2Proof.Machine.execRegisterOr x y s
  | .registerAnd x y => Sys2Proof.Machine.execRegisterAnd x y s
  | .registerXor x y => Sys2Proof.Machine.execRegisterXor x y s
  | .addRegisters x y => Sys2Proof.Machine.execAddRegisters x y s
  | .subRegisters x y => Sys2Proof.Machine.execSubRegisters x y s
  | .shiftRight x y => Sys2Proof.Machine.execShiftRight x y s
  | .subReverse x y => Sys2Proof.Machine.execSubReverse x y s
  | .shiftLeft x y => Sys2Proof.Machine.execShiftLeft x y s
  | .skipNotEqualRegisters x y => Sys2Proof.Machine.execSkipNotEqualRegisters x y s
  | .setIndex nnn => Sys2Proof.Machine.execSetIndex nnn s
  | .jumpWithOffset nnn => Sys2Proof.Machine.execJumpWithOffset nnn s
  | .randomAnd x nn => Sys2Proof.Machine.execRandomAnd x nn s
  | .drawSprite x y n => Sys2Proof.Machine.execDrawSprite x y n s
  | .skipIfKeyPressed x => Sys2Proof.Machine.execSkipIfKeyPressed x s
  | .skipIfKeyNotPressed x => Sys2Proof.Machine.execSkipIfKeyNotPressed x s
  | .getDelayTimer x => Sys2Proof.Machine.execGetDelayTimer x s
  | .waitForKey x => Sys2Proof.Machine.execWaitForKey x s
  | .setDelayTimer x => Sys2Proof.Machine.execSetDelayTimer x s
  | .setSoundTimer x => Sys2Proof.Machine.execSetSoundTimer x s
  | .addToIndex x => Sys2Proof.Machine.execAddToIndex x s
  | .fontAddress x => Sys2Proof.Machine.execFontAddress x s
  | .storeBcd x => Sys2Proof.Machine.execStoreBcd x s
  | .storeRegisters x => Sys2Proof.Machine.execStoreRegisters x s
  | .loadRegisters x => Sys2Proof.Machine.execLoadRegisters x s

end Sys2Proof.Machine
end

