-- ==== Sys2Proof/Machine/Operations.lean ====
section
/-! DEFINITION. The atomic operations of the three agents (spec/00_scope.md R7): the instruction step
(spec/40_step_cycle.md R80), the timer step (spec/60_exceptions.md R173) and the host's operations
(spec/70_reset_and_hazards.md R190, R193; spec/60_exceptions.md R175, R176, R180). -/

namespace Sys2Proof.Machine

/-- The word at PC, big-endian (R81; spec/20_memory.md R42). PC may be odd (R44). -/
def State.fetchWord (s : State) : Word :=
  wordOfBytes (s.readByte s.pc.toNat) (s.readByte (s.pc.toNat + 1))

/-- `stepInstruction`: the range test of the fetch, fetch, decode, execute (R80, R169). -/
def stepInstruction (s : State) : Result :=
  let s := s.clearEvents
  if s.pc.toNat > 4094 then .fault (.fetchRange s.pc)
  else
    match decode s.fetchWord with
    | .ok i => exec i s
    | .error _ => unrecognized s.fetchWord s

/-- A timer counts down by one and stops at 0 (R173). -/
def countDown (t : Byte) : Byte := if t = 0 then 0 else t - 1

/-- `stepTimers`: both timers count down; one tone if ST was nonzero before (R173, R174, D7; log entry 18). -/
def stepTimers (s : State) : State :=
  let t := (s.clearEvents.setDelay (countDown s.dt)).setSound (countDown s.st)
  if s.st = 0 then t else t.emit .tone

/-- `reset`: every item of the Machine State at its initial value, and no event (R190). What is not Machine
State stays: the parameters, the count of draws, `paused` (N10; log entry 9) and the script. -/
def hostReset (s : State) : State :=
  { State.reset with params := s.params, draws := s.draws, paused := s.paused, script := s.script }

/-- `load(bytes)`: reset, copy at most 3584 bytes to 512 and up, and resume (R193, D19; log entry 19). -/
def hostLoad (bytes : List Byte) (s : State) : State :=
  { (hostReset s).storeBytes 512 (bytes.take 3584) with paused := false }

/-- One operation. While paused neither step occurs: a trigger then does nothing (R180, D25; log entry 9). -/
def perform (op : Operation) (s : State) : Result :=
  match op with
  | .instruction => if s.paused then .next s.clearEvents else stepInstruction s
  | .timer => if s.paused then .next s.clearEvents else .next (stepTimers s)
  | .reset => .next (hostReset s)
  | .load bytes => .next (hostLoad bytes s)
  | .keydown k => .next (s.clearEvents.setKey k true)
  | .keyup k => .next (s.clearEvents.setKey k false)
  | .clearDirty => .next (s.clearEvents.setDirty false)
  | .pause => .next { s.clearEvents with paused := true }
  | .resume => .next { s.clearEvents with paused := false }

/-- The next operation of the script, or an instruction step when the script is empty (log entry 1). -/
def performNext (s : State) : Result :=
  match s.script with
  | [] => perform .instruction s
  | op :: rest => perform op { s with script := rest }

/-- `s` with the word `word` where the next instruction step fetches, and that step the very next operation:
the script empty, not paused, and PC at the entry point 512 if it is where nothing can be fetched (log entry 2). -/
def State.placeWord (s : State) (word : Word) : State :=
  let s := { s with script := [], paused := false, pc := if s.pc.toNat > 4094 then 512 else s.pc }
  s.storeBytes s.pc.toNat [highByte word, lowByte word]

end Sys2Proof.Machine
end

