-- ==== Sys2Proof/Machine/Step.lean ====
section
/-! DEFINITION. One step: the next operation (log entry 1). The work is in Operations.lean. -/

namespace Sys2Proof.Machine

/-- One step of the machine. With an empty script, an instruction step (R80). -/
def step (s : State) : Host.Outcome State Fault Refusal := performNext s

/-- `s` with the instruction of the table bits `w` placed where `step` fetches its next instruction; the bits
above `nbits` are 0. -/
def State.withFetchWord (s : State) (nbits w : Nat) : State :=
  s.placeWord (BitVec.ofNat 16 (w % 2 ^ nbits))

end Sys2Proof.Machine
end

