-- ==== Sys2Proof/Safety.lean ====
section
/-! DEFINITION. The terms claims are made in: what an instruction leaves unchanged (`Frame`), the invariant of
every reachable state (spec/10_state.md R26), reachability under every interleaving of the agents
(spec/60_exceptions.md R181), quiescent states (spec/70_reset_and_hazards.md R205), the instructions of each
kind, and the picture of a sprite. -/

namespace Sys2Proof

/-! ### Kinds of instruction -/

/-- How many bytes at I an instruction touches (R47, R136). -/
def Instr.bytesTouched : Instr → Nat
  | .drawSprite _ _ n => n.toNat
  | .storeBcd _ => 3
  | .storeRegisters x | .loadRegisters x => x.toNat + 1
  | _ => 0

/-- The instructions whose PC update is not `PC + 2` on every path (R14). -/
def Instr.steersPc : Instr → Bool
  | .returnSub | .systemCall _ | .jump _ | .call _ | .jumpWithOffset _ => true
  | .skipEqualImmediate _ _ | .skipNotEqualImmediate _ _ | .skipEqualRegisters _ _
  | .skipNotEqualRegisters _ _ | .skipIfKeyPressed _ | .skipIfKeyNotPressed _ | .waitForKey _ => true
  | _ => false

/-- The six instructions that write VF as a side effect (R12). -/
def Instr.writesFlag : Instr → Bool
  | .addRegisters _ _ | .subRegisters _ _ | .shiftRight _ _ | .subReverse _ _ | .shiftLeft _ _
  | .drawSprite _ _ _ => true
  | _ => false

/-- The registers an instruction names as the destination of a result. -/
def Instr.destinations : Instr → List RegIdx
  | .loadImmediate x _ | .addImmediate x _ | .registerMove x _ | .registerOr x _ | .registerAnd x _
  | .registerXor x _ | .addRegisters x _ | .subRegisters x _ | .shiftRight x _ | .subReverse x _
  | .shiftLeft x _ | .randomAnd x _ | .getDelayTimer x | .waitForKey x => [x]
  | .loadRegisters x => (List.range (x.toNat + 1)).map fun k => BitVec.ofNat 4 k
  | _ => []

end Sys2Proof

namespace Sys2Proof.Machine

/-- What an instruction may write, apart from PC: registers and memory addresses by name, other items by a
mark. What is not named must stay. -/
structure Touch where
  regs : List RegIdx := []
  mem : List Nat := []
  index : Bool := false
  stack : Bool := false
  delay : Bool := false
  sound : Bool := false
  display : Bool := false
  dirty : Bool := false
  draws : Bool := false
  events : Bool := false

/-- From `s` to `t` nothing changed but PC and what `T` names. No instruction may change `KEYS` (R18), the
parameters, `paused` or the script. -/
structure Frame (T : Touch) (s t : State) : Prop where
  regs : ∀ r : RegIdx, r ∉ T.regs → t.reg r = s.reg r
  mem : ∀ a : Nat, a ∉ T.mem → t.readByte a = s.readByte a
  index : T.index = false → t.i = s.i
  stack : T.stack = false → t.stack = s.stack ∧ t.sp = s.sp
  delay : T.delay = false → t.dt = s.dt
  sound : T.sound = false → t.st = s.st
  keys : t.keys = s.keys
  display : T.display = false → t.disp = s.disp
  dirty : T.dirty = false → t.dirty = s.dirty
  params : t.params = s.params
  draws : T.draws = false → t.draws = s.draws
  events : T.events = false → t.events = s.events
  paused : t.paused = s.paused
  script : t.script = s.script

/-- The invariant of every reachable state: SP counts at most 16 entries (R16, R26), and memory is in its
canonical form (log entry 22). -/
abbrev State.Inv (s : State) : Prop := s.sp ≤ 16 ∧ Memory.wf s.params.font s.mem = true

/-- The states that the operations of the agents reach, in any order and number, from reset with the
parameters `p` (R7, R181). -/
inductive Reachable (p : Params) : State → Prop where
  | reset : Reachable p { State.reset with params := p }
  | operation {s t : State} (op : Operation) : Reachable p s → perform op s = .next t → Reachable p t

/-- An instruction step returns the same state and emits no log event (R205). -/
def Quiescent (s : State) : Prop := stepInstruction s = .next s.clearEvents

/-- The bit of the sprite of draw-sprite `x y n` that lands on column `cx` of row `cy`; false where the sprite
does not reach (R142, R143). -/
def State.spriteBit (s : State) (x y : RegIdx) (n : Nibble) (cx cy : Nat) : Bool :=
  let vx := (s.reg x).toNat
  let vy := (s.reg y).toNat
  decide (vx ≤ cx) && decide (cx < vx + 8) && decide (vy ≤ cy) && decide (cy < vy + n.toNat) &&
    (s.readByte (s.i.toNat + (cy - vy))).getLsbD (7 - (cx - vx))

/-- The pixel of `s` in column `cx < 64` of row `cy < 32` (R19). -/
def State.pixel (s : State) (cx cy : Nat) : Bool := (pixelAt s.disp cx cy).getD false

/-! ### Shapes of completion: the instruction answers a next state, and which -/

/-- Instruction `i` answers a next state in which only V[x] and PC may differ: V[x] is `result`, PC is
`PC + 2`. -/
def CompletesRegister (i : Instr) (x : RegIdx) (s : State) (result : Byte) : Prop :=
  ∃ t, exec i s = .next t ∧ t.reg x = result ∧ t.pc = s.pc + 2 ∧ Frame { regs := [x] } s t

/-- Instruction `i` answers a next state in which only V[x], V[15] and PC may differ: V[x] is `result`; V[15] is
`flag` unless it is V[x]; PC is `PC + 2` (R123). -/
def CompletesFlagged (i : Instr) (x : RegIdx) (s : State) (result flag : Nat) : Prop :=
  ∃ t, exec i s = .next t ∧ (t.reg x).toNat = result ∧ (x ≠ 15 → (t.reg 15).toNat = flag) ∧
    t.pc = s.pc + 2 ∧ Frame { regs := [x, 15] } s t

/-- Instruction `i` answers a next state in which only PC differs: `PC + 4` if `cond` holds, else `PC + 2`
(R104). -/
def CompletesSkip (i : Instr) (s : State) (cond : Prop) : Prop :=
  ∃ t, exec i s = .next t ∧ (cond → t.pc = s.pc + 4) ∧ (¬ cond → t.pc = s.pc + 2) ∧ Frame {} s t

/-- Instruction `i` answers a next state that differs in nothing but one more event, the log of `cause` with
`word`; PC stays (R160). -/
def CompletesSoftly (i : Instr) (s : State) (cause : Cause) (word : Word) : Prop :=
  ∃ t, exec i s = .next t ∧ t.events = s.events ++ [.log cause word] ∧ t.pc = s.pc ∧
    Frame { events := true } s t

/-! ### Several operations in a row -/

/-- `n` timer steps in a row (R173). -/
def timerSteps : Nat → State → State
  | 0, s => s
  | n + 1, s => timerSteps n (stepTimers s)

/-- How many of the next `n` timer steps emit a tone (R174). -/
def toneCount : Nat → State → Nat
  | 0, _ => 0
  | n + 1, s => (stepTimers s).events.count .tone + toneCount n (stepTimers s)

/-- Calls to the given targets, one after the other, until one does not answer a next state. -/
def callAll : List Literal12 → State → Result
  | [], s => .next s
  | nnn :: targets, s =>
    match exec (.call nnn) s with
    | .next t => callAll targets t
    | .fault f => .fault f
    | .refused r => .refused r

end Sys2Proof.Machine
end

