-- ==== Sys2Proof/Certificates/Slice0/Obligations.lean ====
section
/-! DEFINITION. The statements for the provers. Each docstring names the rules of spec/ it formalises. -/

open Sys2Proof Sys2Proof.Machine

/-! ### Encoding -/

/-- Words written out from the patterns of R65 decode to the instruction they stand for, one per family
(spec/95_test_vectors.md). The digits of 00E0 and 00EE are general knowledge (log entry 16). -/
def Obligations.SampleWordsDecode : Prop :=
  decode 0x00E0 = .ok .clearScreen ∧ decode 0x00EE = .ok .returnSub ∧
  decode 0x0123 = .ok (.systemCall 0x123) ∧ decode 0x1204 = .ok (.jump 0x204) ∧
  decode 0x3A42 = .ok (.skipEqualImmediate 0xA 0x42) ∧ decode 0x9120 = .ok (.skipNotEqualRegisters 1 2) ∧
  decode 0x6A9C = .ok (.loadImmediate 0xA 0x9C) ∧ decode 0x812E = .ok (.shiftLeft 1 2) ∧
  decode 0xD125 = .ok (.drawSprite 1 2 5) ∧ decode 0xE3A1 = .ok (.skipIfKeyNotPressed 3) ∧
  decode 0xF20A = .ok (.waitForKey 2) ∧ decode 0xFA33 = .ok (.storeBcd 0xA)

/-- The bytes of every well-formed instruction, big-endian, decode to that instruction whatever follows them
(R42, R60, R65; the words of clear-screen and return are log entry 16). -/
def Obligations.DecodeOfEncodeIsTheInstruction : Prop :=
  ∀ (i : Instr) (rest : List Byte), i.wellFormed = true →
    decodeBytes (encodeBytes i ++ rest) = .ok (i, rest)

/-- A word that decodes is the encoding of what it decodes to, and that is well-formed: no bit of a recognized
word is dropped (R61, R65; the words of clear-screen and return are log entry 16). -/
def Obligations.EncodeOfDecodeIsTheWord : Prop :=
  ∀ (w : Word) (i : Instr), decode w = .ok i → encode i = w ∧ i.wellFormed = true

/-- The decoder by nibbles (R73) gives, on every word, what first-match dispatch over the ordered map of R64
and R65 gives (the words of clear-screen and return are log entry 16). -/
def Obligations.DecoderAgreesWithOrderedMap : Prop :=
  ∀ w : Word, decode w = decodeByRows w

/-- The unrecognized words are exactly those of the table of R67. That unlisted words are unrecognized is the
spec's own decision D13 (log entry 17). -/
def Obligations.UnrecognizedWordsAreExactlyTheUnlisted : Prop :=
  ∀ w : Word, decode w = .error (.unrecognizedWord w) ↔
    let n1 := w.toNat / 4096
    let n := w.toNat % 16
    let nn := w.toNat % 256
    ((n1 = 5 ∨ n1 = 9) ∧ n ≠ 0) ∨ (n1 = 8 ∧ n ∈ [8, 9, 10, 11, 12, 13, 15]) ∨
    (n1 = 14 ∧ nn ∉ [0x9E, 0xA1]) ∨
    (n1 = 15 ∧ nn ∉ [0x07, 0x0A, 0x15, 0x18, 0x1E, 0x29, 0x33, 0x55, 0x65])

/-! ### The instruction step -/

/-- With no operation before it and not paused, a step at a PC whose two bytes decode to `i` is `exec` of `i`
on the state with the outputs of the last operation cleared (R80 to R82; the script, `paused` and the cleared
events are log entries 1, 9 and 3). -/
def Obligations.StepRunsTheDecodedInstruction : Prop :=
  ∀ (s : State) (i : Instr), s.script = [] → s.paused = false → s.pc.toNat ≤ 4094 →
    decodeBytes [s.readByte s.pc.toNat, s.readByte (s.pc.toNat + 1)] = .ok (i, []) →
    step s = exec i { s with events := [] }

/-- An operation of the script comes before the next instruction step (log entry 1, the model's choice of how
the interleaving of R181 is held). -/
def Obligations.StepTakesTheScriptedOperation : Prop :=
  ∀ (s : State) (op : Operation) (rest : List Operation), s.script = op :: rest →
    step s = perform op { s with script := rest }

/-- A fetch above address 4094 is the hard fault FETCH_RANGE (the spec's own decision D3, log entry 10). -/
def Obligations.FetchAboveMemoryFaults : Prop :=
  ∀ s : State, s.script = [] → s.paused = false → 4094 < s.pc.toNat →
    step s = .fault (.fetchRange s.pc)

/-- A word that decodes to nothing is logged and nothing else changes, PC included; in strict mode it is a hard
fault (R84). -/
def Obligations.UnrecognizedWordIsLoggedAndSpins : Prop :=
  ∀ (s : State) (w : Word), s.script = [] → s.paused = false → s.pc.toNat ≤ 4094 →
    w = wordOfBytes (s.readByte s.pc.toNat) (s.readByte (s.pc.toNat + 1)) →
    decode w = .error (.unrecognizedWord w) →
    (s.params.strict = false → step s = .next { s with events := [.log .unrecognized w] }) ∧
    (s.params.strict = true → step s = .fault (.unrecognizedStrict w))

/-- A store to the two bytes that follow is seen by the very next fetch: store-registers with `I = PC + 2` makes
the next word `{V[0], V[1]}` (R53, which the spec derives). -/
def Obligations.StoreIsSeenByTheNextFetch : Prop :=
  ∀ (s : State) (x : RegIdx), s.script = [] → s.paused = false → s.pc.toNat ≤ 4094 →
    decodeBytes [s.readByte s.pc.toNat, s.readByte (s.pc.toNat + 1)] = .ok (.storeRegisters x, []) →
    1 ≤ x.toNat → s.i.toNat = s.pc.toNat + 2 → s.i.toNat + x.toNat ≤ 4095 →
    ∃ t, step s = .next t ∧ t.pc = s.pc + 2 ∧ t.fetchWord = wordOfBytes (s.reg 0) (s.reg 1)

/-! ### Control transfer -/

/-- return: pops PC from the top entry, which keeps its value; on an empty stack the soft fault
STACK_UNDERFLOW. Which entry a pop takes is the spec's own decision D4 (log entry 13); the digits 00EE of the
logged word are general knowledge (R66, D12; log entry 16). `SP ≤ 16` is the invariant of `StepKeepsInv`. -/
def Obligations.ReturnPopsThePc : Prop :=
  ∀ s : State,
    (0 < s.sp → s.sp ≤ 16 → ∃ t, exec .returnSub s = .next t ∧ s.stack[s.sp - 1]? = some t.pc ∧
      t.sp = s.sp - 1 ∧ t.stack = s.stack ∧ Frame { stack := true } s t) ∧
    (s.sp = 0 → CompletesSoftly .returnSub s .stackUnderflow 0x00EE)

/-- call: pushes `PC + 2` and goes to NNN. Which entry a push writes is the spec's own decision D4 (log
entry 13). -/
def Obligations.CallPushesTheReturnAddress : Prop :=
  ∀ (nnn : Literal12) (s : State), s.sp < 16 →
    ∃ t, exec (.call nnn) s = .next t ∧ t.stack[s.sp]? = some (s.pc + 2) ∧
      (∀ k : Nat, k ≠ s.sp → t.stack[k]? = s.stack[k]?) ∧ t.sp = s.sp + 1 ∧
      t.pc.toNat = nnn.toNat ∧ Frame { stack := true } s t

/-- call on a full stack: the soft fault STACK_OVERFLOW with the word; STACK, SP and PC keep their values; and
no other instruction raises it (R161). -/
def Obligations.CallOnFullStackChangesNothing : Prop :=
  (∀ (nnn : Literal12) (s : State), s.sp = 16 →
    CompletesSoftly (.call nnn) s .stackOverflow (encode (.call nnn))) ∧
  (∀ (i : Instr) (s t : State) (w : Word), s.events = [] → exec i s = .next t →
    .log .stackOverflow w ∈ t.events → ∃ nnn, i = .call nnn)

/-- return on an empty stack: the soft fault STACK_UNDERFLOW with the word; no state changes; and no other
instruction raises it (R162). The digits 00EE of that word are general knowledge (R66, D12; log entry 16). -/
def Obligations.ReturnOnEmptyStackChangesNothing : Prop :=
  (∀ s : State, s.sp = 0 → CompletesSoftly .returnSub s .stackUnderflow 0x00EE) ∧
  (∀ (i : Instr) (s t : State) (w : Word), s.events = [] → exec i s = .next t →
    .log .stackUnderflow w ∈ t.events → i = .returnSub)

/-- A return after a call goes on after the call, with the stack as deep as before and its other entries
untouched (spec/95_test_vectors.md E7). The layout of the stack is the spec's own decision D4 (log entry 13). -/
def Obligations.ReturnUndoesCall : Prop :=
  ∀ (nnn : Literal12) (s t : State), s.sp < 16 → exec (.call nnn) s = .next t →
    ∃ u, exec .returnSub t = .next u ∧ u.pc = s.pc + 2 ∧ u.sp = s.sp ∧
      ∀ k : Nat, k ≠ s.sp → u.stack[k]? = s.stack[k]?

/-- As many nested calls as there are free entries succeed, 16 of them from an empty stack, and leave the
entries below untouched (spec/95_test_vectors.md E7). The layout of the stack is the spec's own decision D4 (log
entry 13). -/
def Obligations.NestedCallsSucceedUpToSixteen : Prop :=
  ∀ (targets : List Literal12) (s : State), s.sp + targets.length ≤ 16 →
    ∃ t, callAll targets s = .next t ∧ t.sp = s.sp + targets.length ∧ t.events = s.events ∧
      ∀ k : Nat, k < s.sp → t.stack[k]? = s.stack[k]?

/-- system-call, every word `0nnn` but 00E0 and 00EE: a warning with the word; nothing else changes, PC
included (R91). That those two words are 00E0 and 00EE is general knowledge (R66, D12; log entry 16). -/
def Obligations.SystemCallOnlyWarns : Prop :=
  ∀ (nnn : Literal12) (s : State), ∃ w : Word, w.toNat = nnn.toNat ∧
    (nnn ≠ 0x0E0 → nnn ≠ 0x0EE → decode w = .ok (.systemCall nnn)) ∧
    CompletesSoftly (.systemCall nnn) s .syscallWarn w

/-- jump, 1nnn: PC is NNN (R92). -/
def Obligations.JumpGoesToTheLiteral : Prop :=
  ∀ (nnn : Literal12) (s : State), decode (encodeA 0x1 nnn) = .ok (.jump nnn) ∧
    ∃ t, exec (.jump nnn) s = .next t ∧ t.pc.toNat = nnn.toNat ∧ Frame {} s t

/-- jump-with-offset, Bnnn: PC is NNN + V[0], never reduced to 12 bits, at most 0x10FE (R94). -/
def Obligations.JumpWithOffsetAddsRegisterZero : Prop :=
  ∀ (nnn : Literal12) (s : State), decode (encodeA 0xB nnn) = .ok (.jumpWithOffset nnn) ∧
    ∃ t, exec (.jumpWithOffset nnn) s = .next t ∧ t.pc.toNat = nnn.toNat + (s.reg 0).toNat ∧
      t.pc.toNat ≤ 0x10FE ∧ Frame {} s t

/-! ### Skips -/

/-- The skips on a literal, 3xnn and 4xnn (R100, R101). -/
def Obligations.SkipsOnALiteral : Prop :=
  ∀ (x : RegIdx) (nn : Byte) (s : State),
    decode (encodeI 0x3 x nn) = .ok (.skipEqualImmediate x nn) ∧
    decode (encodeI 0x4 x nn) = .ok (.skipNotEqualImmediate x nn) ∧
    CompletesSkip (.skipEqualImmediate x nn) s (s.reg x = nn) ∧
    CompletesSkip (.skipNotEqualImmediate x nn) s (s.reg x ≠ nn)

/-- The skips on two registers, 5xy0 and 9xy0; with another low nibble the word is unrecognized (R102, R103).
That last clause is the spec's own decision D13 (R67; log entry 17). -/
def Obligations.SkipsOnRegisters : Prop :=
  ∀ (x y : RegIdx) (s : State),
    decode (encodeR 0x5 x y 0x0) = .ok (.skipEqualRegisters x y) ∧
    decode (encodeR 0x9 x y 0x0) = .ok (.skipNotEqualRegisters x y) ∧
    (∀ n : Nibble, n ≠ 0 →
      decode (encodeR 0x5 x y n) = .error (.unrecognizedWord (encodeR 0x5 x y n)) ∧
      decode (encodeR 0x9 x y n) = .error (.unrecognizedWord (encodeR 0x9 x y n))) ∧
    CompletesSkip (.skipEqualRegisters x y) s (s.reg x = s.reg y) ∧
    CompletesSkip (.skipNotEqualRegisters x y) s (s.reg x ≠ s.reg y)

/-- The skips on a key, Ex9E and ExA1: a code above 15 reads as released (R150, R151, R156). -/
def Obligations.SkipsOnAKey : Prop :=
  ∀ (x : RegIdx) (s : State),
    decode (encodeI 0xE x 0x9E) = .ok (.skipIfKeyPressed x) ∧
    decode (encodeI 0xE x 0xA1) = .ok (.skipIfKeyNotPressed x) ∧
    CompletesSkip (.skipIfKeyPressed x) s
      (∃ k : Fin 16, k.val = (s.reg x).toNat ∧ s.keys[k] = true) ∧
    CompletesSkip (.skipIfKeyNotPressed x) s
      (¬ ∃ k : Fin 16, k.val = (s.reg x).toNat ∧ s.keys[k] = true)

/-! ### Loads, arithmetic, logic, shifts, random -/

/-- load-immediate, 6xnn, and add-immediate, 7xnn: no flag is written (R111, R112). -/
def Obligations.ImmediateLoadsAndAdds : Prop :=
  ∀ (x : RegIdx) (nn : Byte) (s : State),
    decode (encodeI 0x6 x nn) = .ok (.loadImmediate x nn) ∧
    decode (encodeI 0x7 x nn) = .ok (.addImmediate x nn) ∧
    CompletesRegister (.loadImmediate x nn) x s nn ∧
    CompletesRegister (.addImmediate x nn) x s
      (BitVec.ofNat 8 (((s.reg x).toNat + nn.toNat) % 256))

/-- register-move, register-or, register-and and register-xor, 8xy0 to 8xy3, bit by bit: no flag is written
(R113 to R116). -/
def Obligations.MoveAndLogicWriteOnlyTheDestination : Prop :=
  ∀ (x y : RegIdx) (s : State),
    decode (encodeR 0x8 x y 0x0) = .ok (.registerMove x y) ∧
    decode (encodeR 0x8 x y 0x1) = .ok (.registerOr x y) ∧
    decode (encodeR 0x8 x y 0x2) = .ok (.registerAnd x y) ∧
    decode (encodeR 0x8 x y 0x3) = .ok (.registerXor x y) ∧
    CompletesRegister (.registerMove x y) x s (s.reg y) ∧
    (∃ r, CompletesRegister (.registerOr x y) x s r ∧
      ∀ k, r.getLsbD k = ((s.reg x).getLsbD k || (s.reg y).getLsbD k)) ∧
    (∃ r, CompletesRegister (.registerAnd x y) x s r ∧
      ∀ k, r.getLsbD k = ((s.reg x).getLsbD k && (s.reg y).getLsbD k)) ∧
    (∃ r, CompletesRegister (.registerXor x y) x s r ∧
      ∀ k, r.getLsbD k = ((s.reg x).getLsbD k ^^ (s.reg y).getLsbD k))

/-- add-registers, X and Y other than 15: the sum modulo 256, and VF its carry (R117; the forms with register 15
are `FlagRegisterAsOperand`). -/
def Obligations.AddRegistersSetsTheCarry : Prop :=
  ∀ (x y : RegIdx) (s : State), x ≠ 15 → y ≠ 15 →
    let a := (s.reg x).toNat
    let b := (s.reg y).toNat
    CompletesFlagged (.addRegisters x y) x s ((a + b) % 256) (if b > 255 - a then 1 else 0)

/-- sub-registers and sub-reverse, X and Y other than 15: the difference modulo 256, and VF the strict comparison
(R118, R120, C6; the forms with register 15 are `FlagRegisterAsOperand`). -/
def Obligations.SubtractionsSetTheStrictComparison : Prop :=
  ∀ (x y : RegIdx) (s : State), x ≠ 15 → y ≠ 15 →
    let a := (s.reg x).toNat
    let b := (s.reg y).toNat
    CompletesFlagged (.subRegisters x y) x s ((256 + a - b) % 256) (if a > b then 1 else 0) ∧
    CompletesFlagged (.subReverse x y) x s ((256 + b - a) % 256) (if b > a then 1 else 0)

/-- shift-right and shift-left, X other than 15: Vx alone is shifted by one, and VF is the bit shifted out
(R119, R121, C7, C15; X = 15 is in `FlagRegisterAsOperand`). -/
def Obligations.ShiftsMoveTheLostBitToTheFlag : Prop :=
  ∀ (x y : RegIdx) (s : State), x ≠ 15 →
    let a := (s.reg x).toNat
    CompletesFlagged (.shiftRight x y) x s (a / 2) (a % 2) ∧
    CompletesFlagged (.shiftLeft x y) x s (a * 2 % 256) (a / 128)

/-- The five flag-writing arithmetic instructions with register 15 as X or Y: the operands are those before the
instruction, and with X = 15 the result is what remains in VF. That operands are sampled before the flag write
is the spec's own decision D1 (log entry 11). -/
def Obligations.FlagRegisterAsOperand : Prop :=
  ∀ (x y : RegIdx) (s : State), x = 15 ∨ y = 15 →
    let a := (s.reg x).toNat
    let b := (s.reg y).toNat
    CompletesFlagged (.addRegisters x y) x s ((a + b) % 256) (if a + b > 255 then 1 else 0) ∧
    CompletesFlagged (.subRegisters x y) x s ((256 + a - b) % 256) (if a > b then 1 else 0) ∧
    CompletesFlagged (.subReverse x y) x s ((256 + b - a) % 256) (if b > a then 1 else 0) ∧
    CompletesFlagged (.shiftRight x y) x s (a / 2) (a % 2) ∧
    CompletesFlagged (.shiftLeft x y) x s (a * 2 % 256) (a / 128)

/-- random-and, Cxnn: the byte drawn for this execution, whatever it is, masked with NN; the next draw is
another one (R122). The free value and its counter are the model's form of the draw (log entries 6 and 8). -/
def Obligations.RandomAndMasksTheDraw : Prop :=
  ∀ (x : RegIdx) (nn : Byte) (s : State),
    decode (encodeI 0xC x nn) = .ok (.randomAnd x nn) ∧
    ∃ t, exec (.randomAnd x nn) s = .next t ∧
      (∀ k, (t.reg x).getLsbD k = ((Config.randomByte s.draws).getLsbD k && nn.getLsbD k)) ∧
      t.draws = s.draws + 1 ∧ t.pc = s.pc + 2 ∧ Frame { regs := [x], draws := true } s t

/-! ### Index register and memory -/

/-- set-index, Annn, add-to-index, Fx1E, and font-address, Fx29: the new I, and no flag (R130 to R132). -/
def Obligations.IndexInstructionsWriteOnlyTheIndex : Prop :=
  ∀ (x : RegIdx) (nnn : Literal12) (s : State),
    decode (encodeA 0xA nnn) = .ok (.setIndex nnn) ∧
    decode (encodeI 0xF x 0x1E) = .ok (.addToIndex x) ∧
    decode (encodeI 0xF x 0x29) = .ok (.fontAddress x) ∧
    (∃ t, exec (.setIndex nnn) s = .next t ∧ t.i.toNat = nnn.toNat ∧ t.pc = s.pc + 2 ∧
      Frame { index := true } s t) ∧
    (∃ t, exec (.addToIndex x) s = .next t ∧ t.i.toNat = (s.i.toNat + (s.reg x).toNat) % 65536 ∧
      t.pc = s.pc + 2 ∧ Frame { index := true } s t) ∧
    (∃ t, exec (.fontAddress x) s = .next t ∧ t.i.toNat = (s.reg x).toNat * 5 ∧ t.pc = s.pc + 2 ∧
      Frame { index := true } s t)

/-- store-bcd: the three digits at I, I + 1 and I + 2 and no other byte; MEM_RANGE and nothing written when one
of them is above 4095. The range fault is the spec's own decision D2 (log entry 10). -/
def Obligations.StoreBcdWritesThreeDigits : Prop :=
  ∀ (x : RegIdx) (s : State),
    let a := (s.reg x).toNat
    let p := s.i.toNat
    (p + 2 ≤ 4095 → ∃ t, exec (.storeBcd x) s = .next t ∧ (t.readByte p).toNat = a / 100 ∧
      (t.readByte (p + 1)).toNat = a / 10 % 10 ∧ (t.readByte (p + 2)).toNat = a % 10 ∧
      t.pc = s.pc + 2 ∧ Frame { mem := [p, p + 1, p + 2] } s t) ∧
    (4095 < p + 2 → exec (.storeBcd x) s = .fault (.memRange (encode (.storeBcd x)) s.i))

/-- store-registers: V[0] .. V[X] at I .. I + X and no other byte, I unchanged; MEM_RANGE and nothing written
when one of them is above 4095. The range fault is the spec's own decision D2 (log entry 10). -/
def Obligations.StoreRegistersWritesTheBlock : Prop :=
  ∀ (x : RegIdx) (s : State),
    let p := s.i.toNat
    (p + x.toNat ≤ 4095 → ∃ t, exec (.storeRegisters x) s = .next t ∧
      (∀ r : RegIdx, r.toNat ≤ x.toNat → t.readByte (p + r.toNat) = s.reg r) ∧ t.pc = s.pc + 2 ∧
      Frame { mem := (List.range (x.toNat + 1)).map (p + ·) } s t) ∧
    (4095 < p + x.toNat →
      exec (.storeRegisters x) s = .fault (.memRange (encode (.storeRegisters x)) s.i))

/-- load-registers: V[0] .. V[X] from I .. I + X, the registers above keep their values, I and memory unchanged;
MEM_RANGE when a byte is above 4095. The range fault is the spec's own decision D2 (log entry 10). -/
def Obligations.LoadRegistersReadsTheBlock : Prop :=
  ∀ (x : RegIdx) (s : State),
    let p := s.i.toNat
    (p + x.toNat ≤ 4095 → ∃ t, exec (.loadRegisters x) s = .next t ∧
      (∀ r : RegIdx, r.toNat ≤ x.toNat → t.reg r = s.readByte (p + r.toNat)) ∧ t.pc = s.pc + 2 ∧
      Frame { regs := (List.range (x.toNat + 1)).map (BitVec.ofNat 4) } s t) ∧
    (4095 < p + x.toNat →
      exec (.loadRegisters x) s = .fault (.memRange (encode (.loadRegisters x)) s.i))

/-- Storing V[0] .. V[X] and loading them back, whatever the registers hold in between, gives the values stored
(spec/95_test_vectors.md E11). -/
def Obligations.LoadAfterStoreRestoresTheBlock : Prop :=
  ∀ (x : RegIdx) (between : Vector Byte 16) (s t : State), exec (.storeRegisters x) s = .next t →
    ∃ u, exec (.loadRegisters x) { t with v := between } = .next u ∧
      ∀ r : RegIdx, r.toNat ≤ x.toNat → u.reg r = s.reg r

/-! ### Display -/

/-- clear-screen: every pixel 0, and nothing else but PC. That DIRTY is not written is the spec's own decision D6
(log entry 14). -/
def Obligations.ClearScreenClearsEveryPixel : Prop :=
  ∀ s : State, ∃ t, exec .clearScreen s = .next t ∧ (∀ cx cy : Nat, t.pixel cx cy = false) ∧
    t.pc = s.pc + 2 ∧ Frame { display := true } s t

/-- draw-sprite with its bytes in range: each pixel is XORed with the sprite bit that lands on it, clipped at the
bounds and never wrapped; VF tells whether a lit pixel met a sprite bit; DIRTY is set; coordinates are those
before VF is written. It rests on the spec's own decisions D1 (operands first), D2 (range) and D10 (bit order)
(log entries 10, 11, 15). -/
def Obligations.DrawSpriteXorsThePixels : Prop :=
  ∀ (x y : RegIdx) (n : Nibble) (s : State), (0 < n.toNat → s.i.toNat + n.toNat ≤ 4096) →
    ∃ t, exec (.drawSprite x y n) s = .next t ∧
      (∀ cx cy : Nat, cx < 64 → cy < 32 →
        t.pixel cx cy = (s.pixel cx cy ^^ s.spriteBit x y n cx cy)) ∧
      (t.reg 15).toNat ≤ 1 ∧
      ((t.reg 15).toNat = 1 ↔
        ∃ cx cy : Nat, cx < 64 ∧ cy < 32 ∧ s.pixel cx cy = true ∧ s.spriteBit x y n cx cy = true) ∧
      t.dirty = true ∧ t.pc = s.pc + 2 ∧ Frame { regs := [15], display := true, dirty := true } s t

/-- Drawing the same sprite twice at the same coordinates gives every pixel back; and where the pixels it touches
were 0 and it has a bit in bounds, the second draw collides (spec/95_test_vectors.md E8). It rests on the spec's
own decisions D2 (range) and D10 (bit order) (log entries 10, 15). -/
def Obligations.DrawingTwiceRestoresTheScreen : Prop :=
  ∀ (x y : RegIdx) (n : Nibble) (s t : State), exec (.drawSprite x y n) s = .next t →
    t.reg x = s.reg x → t.reg y = s.reg y →
    ∃ u, exec (.drawSprite x y n) t = .next u ∧
      (∀ cx cy : Nat, cx < 64 → cy < 32 → u.pixel cx cy = s.pixel cx cy) ∧
      ((∀ cx cy : Nat, cx < 64 → cy < 32 → s.spriteBit x y n cx cy = true → s.pixel cx cy = false) →
        (∃ cx cy : Nat, cx < 64 ∧ cy < 32 ∧ s.spriteBit x y n cx cy = true) → u.reg 15 = 1)

/-! ### Keypad and timer instructions -/

/-- wait-for-key, Fx0A: with no key pressed the state is unchanged, PC included; else V[X] is the code of a
pressed key (R152; which of several is a free value, log entry 7). -/
def Obligations.WaitForKeyTakesAPressedKey : Prop :=
  ∀ (x : RegIdx) (s : State),
    decode (encodeI 0xF x 0x0A) = .ok (.waitForKey x) ∧
    ((∀ k : Fin 16, s.keys[k] = false) → exec (.waitForKey x) s = .next s) ∧
    ((∃ k : Fin 16, s.keys[k] = true) → ∃ (t : State) (k : Fin 16), exec (.waitForKey x) s = .next t ∧
      s.keys[k] = true ∧ (t.reg x).toNat = k.val ∧ t.pc = s.pc + 2 ∧
      Frame { regs := [x], draws := true } s t)

/-- get-delay-timer, Fx07, set-delay-timer, Fx15, and set-sound-timer, Fx18; the last emits no tone (R153 to
R155; what timer steps do with ST is `SoundTimerGivesThatManyTones`). -/
def Obligations.TimerInstructionsMoveOneByte : Prop :=
  ∀ (x : RegIdx) (s : State),
    decode (encodeI 0xF x 0x07) = .ok (.getDelayTimer x) ∧
    decode (encodeI 0xF x 0x15) = .ok (.setDelayTimer x) ∧
    decode (encodeI 0xF x 0x18) = .ok (.setSoundTimer x) ∧
    CompletesRegister (.getDelayTimer x) x s s.dt ∧
    (∃ t, exec (.setDelayTimer x) s = .next t ∧ t.dt = s.reg x ∧ t.pc = s.pc + 2 ∧
      Frame { delay := true } s t) ∧
    (∃ t, exec (.setSoundTimer x) s = .next t ∧ t.st = s.reg x ∧ t.pc = s.pc + 2 ∧
      Frame { sound := true } s t)

/-! ### The timer step and the host's operations -/

/-- The timer step: both timers count down and stop at 0, one tone if ST was nonzero before, and nothing else
changes. That the test comes before the decrement is the spec's own decision D7 (log entry 18). -/
def Obligations.TimerStepCountsDown : Prop :=
  ∀ s : State, s.paused = false → ∃ t, perform .timer s = .next t ∧ t.dt.toNat = s.dt.toNat - 1 ∧
    t.st.toNat = s.st.toNat - 1 ∧ t.events = (if 0 < s.st.toNat then [.tone] else []) ∧
    t = { s with dt := t.dt, st := t.st, events := t.events }

/-- After `n` timer steps each timer is down by `n`, and never below 0 (spec/95_test_vectors.md E9). -/
def Obligations.TimersStopAtZero : Prop :=
  ∀ (n : Nat) (s : State),
    (timerSteps n s).dt.toNat = s.dt.toNat - n ∧ (timerSteps n s).st.toNat = s.st.toNat - n

/-- Of `n` timer steps in a row as many emit a tone as ST counts, at most all: `ST = n` gives n tones. The spec's
own reading D7 (log entry 18). -/
def Obligations.SoundTimerGivesThatManyTones : Prop :=
  ∀ (n : Nat) (s : State), toneCount n s = min n s.st.toNat

/-- After reset, whatever the state was, memory 0..79 is the font table (R192). -/
def Obligations.ResetRestoresTheFont : Prop :=
  ∀ s : State, ∃ t, perform .reset s = .next t ∧
    ∀ k : Fin 80, t.readByte k.val = s.params.font[k]

/-- What reset leaves, from any state, and what `State.reset` is. The zeros of I, SP, DT, ST, DISP and DIRTY are
the spec's own decision D5 (log entry 12); the parameters are kept. -/
def Obligations.ResetLeavesTheInitialState : Prop :=
  (∀ s : State, ∃ t, perform .reset s = .next t ∧
    (∀ a : Nat, 80 ≤ a → t.readByte a = 0) ∧ (∀ r : RegIdx, t.reg r = 0) ∧ t.i = 0 ∧ t.pc = 512 ∧
    (∀ k : Fin 16, t.stack[k] = 0) ∧ t.sp = 0 ∧ t.dt = 0 ∧ t.st = 0 ∧
    (∀ k : Fin 16, t.keys[k] = false) ∧ (∀ cx cy : Nat, t.pixel cx cy = false) ∧ t.dirty = false ∧
    t.events = [] ∧ t.params = s.params) ∧
  perform .reset State.reset = .next State.reset

/-- load: reset, then the bytes from 512 on, at most 3584 of them, every other byte as after reset, and running.
That a longer image is cut is the spec's own reading D19 (log entry 19). -/
def Obligations.LoadPlacesTheImage : Prop :=
  ∀ (bytes : List Byte) (s : State), ∃ t, perform (.load bytes) s = .next t ∧
    (∀ k : Nat, k < 3584 → k < bytes.length → bytes[k]? = some (t.readByte (512 + k))) ∧
    (∀ a : Nat, a < 512 ∨ 512 + min bytes.length 3584 ≤ a →
      t.readByte a = (hostReset s).readByte a) ∧
    t = { hostReset s with mem := t.mem, paused := false }

/-- keydown, keyup and clear_dirty change their one bit and nothing else but the outputs of the last operation
(R175, R176; log entry 3). -/
def Obligations.HostEventsChangeTheirOneBit : Prop :=
  ∀ (k : KeyCode) (s : State),
    (∃ t, perform (.keydown k) s = .next t ∧
      (∀ j : Fin 16, t.keys[j] = if j.val = k.toNat then true else s.keys[j]) ∧
      t = { s with keys := t.keys, events := [] }) ∧
    (∃ t, perform (.keyup k) s = .next t ∧
      (∀ j : Fin 16, t.keys[j] = if j.val = k.toNat then false else s.keys[j]) ∧
      t = { s with keys := t.keys, events := [] }) ∧
    perform .clearDirty s = .next { s with dirty := false, events := [] }

/-- While paused neither step occurs and all Machine State is retained; pause and resume only set the condition
(the spec's own decision D25, log entry 9). -/
def Obligations.PausedMachineRetainsItsState : Prop :=
  ∀ s : State,
    (s.paused = true → perform .instruction s = .next { s with events := [] } ∧
      perform .timer s = .next { s with events := [] }) ∧
    perform .pause s = .next { s with paused := true, events := [] } ∧
    perform .resume s = .next { s with paused := false, events := [] }

/-! ### Whole-machine rules -/

/-- Every instruction answers a next state, except that an instruction that touches a byte above 4095 at I takes
MEM_RANGE; no instruction is refused (the range fault is the spec's own decision D2, log entry 10). -/
def Obligations.InstructionsStopOnlyOutOfRange : Prop :=
  ∀ (i : Instr) (s : State),
    if 0 < i.bytesTouched ∧ 4096 < s.i.toNat + i.bytesTouched
    then exec i s = .fault (.memRange (encode i) s.i)
    else ∃ t, exec i s = .next t

/-- Which instructions may change which item of the machine (the exhaustive lists of R13, R15, R17 to R20, R40
and R80). That STACK changes only under call, a popped entry keeping its value, is the spec's own decision D4 (log
entry 13); that DIRTY changes only under draw-sprite, and not under clear-screen, is its own decision D6 (log
entry 14). -/
def Obligations.OnlyNamedInstructionsWriteAnItem : Prop :=
  ∀ (i : Instr) (s t : State), exec i s = .next t →
    (t.i ≠ s.i → (∃ nnn, i = .setIndex nnn) ∨ (∃ x, i = .addToIndex x) ∨ ∃ x, i = .fontAddress x) ∧
    (t.stack ≠ s.stack → ∃ nnn, i = .call nnn) ∧
    (t.sp ≠ s.sp → (∃ nnn, i = .call nnn) ∨ i = .returnSub) ∧
    (t.dt ≠ s.dt → ∃ x, i = .setDelayTimer x) ∧
    (t.st ≠ s.st → ∃ x, i = .setSoundTimer x) ∧
    (t.disp ≠ s.disp → i = .clearScreen ∨ ∃ x y n, i = .drawSprite x y n) ∧
    (t.dirty ≠ s.dirty → ∃ x y n, i = .drawSprite x y n) ∧
    (t.mem ≠ s.mem → (∃ x, i = .storeBcd x) ∨ ∃ x, i = .storeRegisters x) ∧
    t.keys = s.keys ∧ t.params = s.params ∧ t.paused = s.paused ∧ t.script = s.script

/-- A register changes only as the destination an instruction names, or as VF in the six instructions that write
it as a side effect (R12). -/
def Obligations.RegistersChangeOnlyAsNamed : Prop :=
  ∀ (i : Instr) (s t : State) (r : RegIdx), exec i s = .next t → t.reg r ≠ s.reg r →
    r ∈ i.destinations ∨ (r = 15 ∧ i.writesFlag = true)

/-- Every instruction that is not a transfer, a skip, wait-for-key or system-call ends at `PC + 2` (R83, R14). -/
def Obligations.OtherInstructionsAdvanceByTwo : Prop :=
  ∀ (i : Instr) (s t : State), i.steersPc = false → exec i s = .next t → t.pc = s.pc + 2

/-- An operation emits at most one event: an instruction step reports at most one cause (R169, which the spec
derives), a timer step at most one tone. -/
def Obligations.OperationsEmitAtMostOneEvent : Prop :=
  ∀ (op : Operation) (s t : State), perform op s = .next t → t.events.length ≤ 1

/-- The quiescent states are a jump to its own address, a jump-with-offset whose sum is its own address, and
wait-for-key with no key pressed. The second is not in the spec's list (R205, decision D21) although R94 makes it
one: log entry 27. -/
def Obligations.QuiescentStatesAreTheSelfJumps : Prop :=
  ∀ s : State, s.pc.toNat ≤ 4094 →
    (Quiescent s ↔
      (∃ nnn, decode s.fetchWord = .ok (.jump nnn) ∧ nnn.toNat = s.pc.toNat) ∨
      (∃ nnn, decode s.fetchWord = .ok (.jumpWithOffset nnn) ∧
        nnn.toNat + (s.reg 0).toNat = s.pc.toNat) ∨
      (∃ x, decode s.fetchWord = .ok (.waitForKey x) ∧ ∀ k : Fin 16, s.keys[k] = false))

/-! ### Invariants -/

/-- The state after reset meets the invariant, for every font and either mode (R16, R26; log entry 22). -/
def Obligations.ResetMeetsTheInvariant : Prop :=
  State.reset.Inv ∧ ∀ p : Params, { State.reset with params := p }.Inv

/-- Every step, whatever operation it performs, keeps SP within 0..16 and memory in its canonical form, below
address 4096 (R16, R26, which the spec derives; log entry 22). -/
def Obligations.StepKeepsInv : Prop :=
  ∀ s t : State, s.Inv → step s = .next t → t.Inv

/-- In every state that any interleaving of the agents' operations reaches, SP is at most 16, memory is canonical
and the parameters are those the machine began with (R16, R26, R181). The canonical form of memory is the model's
own (log entry 22), and so is the place of the kept parameters STRICT_MODE and FONT in State (log entries 4, 5). -/
def Obligations.ReachableStatesMeetInv : Prop :=
  ∀ (p : Params) (s : State), Reachable p s → s.Inv ∧ s.params = p

/-- Two canonical memories that hold the same bytes are the same data (log entry 22). -/
def Obligations.CanonicalMemoriesAreEqualWhenTheyReadEqual : Prop :=
  ∀ (font : Vector Byte 80) (m m' : Memory), Memory.wf font m = true → Memory.wf font m' = true →
    (∀ a : Nat, Memory.read font m a = Memory.read font m' a) → m = m'
end

