-- ==== Sys2Proof/Laws/State.lean ====
section
/-! SUPPORT. One lemma per field per update of State, true by unfolding, so that no proof unfolds a record
update; and what the two reads `reg` and `readByte` see of each update. -/

namespace Sys2Proof.Machine

variable (s : State)

/-! ### `writeByte` -/

@[simp] theorem State.writeByte_mem (a : Nat) (b : Byte) : (s.writeByte a b).mem = Memory.write s.params.font s.mem a b := rfl
@[simp] theorem State.writeByte_v (a : Nat) (b : Byte) : (s.writeByte a b).v = s.v := rfl
@[simp] theorem State.writeByte_i (a : Nat) (b : Byte) : (s.writeByte a b).i = s.i := rfl
@[simp] theorem State.writeByte_pc (a : Nat) (b : Byte) : (s.writeByte a b).pc = s.pc := rfl
@[simp] theorem State.writeByte_stack (a : Nat) (b : Byte) : (s.writeByte a b).stack = s.stack := rfl
@[simp] theorem State.writeByte_sp (a : Nat) (b : Byte) : (s.writeByte a b).sp = s.sp := rfl
@[simp] theorem State.writeByte_dt (a : Nat) (b : Byte) : (s.writeByte a b).dt = s.dt := rfl
@[simp] theorem State.writeByte_st (a : Nat) (b : Byte) : (s.writeByte a b).st = s.st := rfl
@[simp] theorem State.writeByte_keys (a : Nat) (b : Byte) : (s.writeByte a b).keys = s.keys := rfl
@[simp] theorem State.writeByte_disp (a : Nat) (b : Byte) : (s.writeByte a b).disp = s.disp := rfl
@[simp] theorem State.writeByte_dirty (a : Nat) (b : Byte) : (s.writeByte a b).dirty = s.dirty := rfl
@[simp] theorem State.writeByte_params (a : Nat) (b : Byte) : (s.writeByte a b).params = s.params := rfl
@[simp] theorem State.writeByte_draws (a : Nat) (b : Byte) : (s.writeByte a b).draws = s.draws := rfl
@[simp] theorem State.writeByte_events (a : Nat) (b : Byte) : (s.writeByte a b).events = s.events := rfl
@[simp] theorem State.writeByte_paused (a : Nat) (b : Byte) : (s.writeByte a b).paused = s.paused := rfl
@[simp] theorem State.writeByte_script (a : Nat) (b : Byte) : (s.writeByte a b).script = s.script := rfl
@[simp] theorem State.reg_writeByte (a : Nat) (b : Byte) (r : RegIdx) : (s.writeByte a b).reg r = s.reg r := rfl

/-! ### `setReg` -/

@[simp] theorem State.setReg_mem (x : RegIdx) (b : Byte) : (s.setReg x b).mem = s.mem := rfl
@[simp] theorem State.setReg_v (x : RegIdx) (b : Byte) : (s.setReg x b).v = s.v.set x.toNat b := rfl
@[simp] theorem State.setReg_i (x : RegIdx) (b : Byte) : (s.setReg x b).i = s.i := rfl
@[simp] theorem State.setReg_pc (x : RegIdx) (b : Byte) : (s.setReg x b).pc = s.pc := rfl
@[simp] theorem State.setReg_stack (x : RegIdx) (b : Byte) : (s.setReg x b).stack = s.stack := rfl
@[simp] theorem State.setReg_sp (x : RegIdx) (b : Byte) : (s.setReg x b).sp = s.sp := rfl
@[simp] theorem State.setReg_dt (x : RegIdx) (b : Byte) : (s.setReg x b).dt = s.dt := rfl
@[simp] theorem State.setReg_st (x : RegIdx) (b : Byte) : (s.setReg x b).st = s.st := rfl
@[simp] theorem State.setReg_keys (x : RegIdx) (b : Byte) : (s.setReg x b).keys = s.keys := rfl
@[simp] theorem State.setReg_disp (x : RegIdx) (b : Byte) : (s.setReg x b).disp = s.disp := rfl
@[simp] theorem State.setReg_dirty (x : RegIdx) (b : Byte) : (s.setReg x b).dirty = s.dirty := rfl
@[simp] theorem State.setReg_params (x : RegIdx) (b : Byte) : (s.setReg x b).params = s.params := rfl
@[simp] theorem State.setReg_draws (x : RegIdx) (b : Byte) : (s.setReg x b).draws = s.draws := rfl
@[simp] theorem State.setReg_events (x : RegIdx) (b : Byte) : (s.setReg x b).events = s.events := rfl
@[simp] theorem State.setReg_paused (x : RegIdx) (b : Byte) : (s.setReg x b).paused = s.paused := rfl
@[simp] theorem State.setReg_script (x : RegIdx) (b : Byte) : (s.setReg x b).script = s.script := rfl
@[simp] theorem State.readByte_setReg (x : RegIdx) (b : Byte) (p : Nat) : (s.setReg x b).readByte p = s.readByte p := rfl

/-! ### `setIndex` -/

@[simp] theorem State.setIndex_mem (w : Word) : (s.setIndex w).mem = s.mem := rfl
@[simp] theorem State.setIndex_v (w : Word) : (s.setIndex w).v = s.v := rfl
@[simp] theorem State.setIndex_i (w : Word) : (s.setIndex w).i = w := rfl
@[simp] theorem State.setIndex_pc (w : Word) : (s.setIndex w).pc = s.pc := rfl
@[simp] theorem State.setIndex_stack (w : Word) : (s.setIndex w).stack = s.stack := rfl
@[simp] theorem State.setIndex_sp (w : Word) : (s.setIndex w).sp = s.sp := rfl
@[simp] theorem State.setIndex_dt (w : Word) : (s.setIndex w).dt = s.dt := rfl
@[simp] theorem State.setIndex_st (w : Word) : (s.setIndex w).st = s.st := rfl
@[simp] theorem State.setIndex_keys (w : Word) : (s.setIndex w).keys = s.keys := rfl
@[simp] theorem State.setIndex_disp (w : Word) : (s.setIndex w).disp = s.disp := rfl
@[simp] theorem State.setIndex_dirty (w : Word) : (s.setIndex w).dirty = s.dirty := rfl
@[simp] theorem State.setIndex_params (w : Word) : (s.setIndex w).params = s.params := rfl
@[simp] theorem State.setIndex_draws (w : Word) : (s.setIndex w).draws = s.draws := rfl
@[simp] theorem State.setIndex_events (w : Word) : (s.setIndex w).events = s.events := rfl
@[simp] theorem State.setIndex_paused (w : Word) : (s.setIndex w).paused = s.paused := rfl
@[simp] theorem State.setIndex_script (w : Word) : (s.setIndex w).script = s.script := rfl
@[simp] theorem State.reg_setIndex (w : Word) (r : RegIdx) : (s.setIndex w).reg r = s.reg r := rfl
@[simp] theorem State.readByte_setIndex (w : Word) (p : Nat) : (s.setIndex w).readByte p = s.readByte p := rfl

/-! ### `setDelay` -/

@[simp] theorem State.setDelay_mem (b : Byte) : (s.setDelay b).mem = s.mem := rfl
@[simp] theorem State.setDelay_v (b : Byte) : (s.setDelay b).v = s.v := rfl
@[simp] theorem State.setDelay_i (b : Byte) : (s.setDelay b).i = s.i := rfl
@[simp] theorem State.setDelay_pc (b : Byte) : (s.setDelay b).pc = s.pc := rfl
@[simp] theorem State.setDelay_stack (b : Byte) : (s.setDelay b).stack = s.stack := rfl
@[simp] theorem State.setDelay_sp (b : Byte) : (s.setDelay b).sp = s.sp := rfl
@[simp] theorem State.setDelay_dt (b : Byte) : (s.setDelay b).dt = b := rfl
@[simp] theorem State.setDelay_st (b : Byte) : (s.setDelay b).st = s.st := rfl
@[simp] theorem State.setDelay_keys (b : Byte) : (s.setDelay b).keys = s.keys := rfl
@[simp] theorem State.setDelay_disp (b : Byte) : (s.setDelay b).disp = s.disp := rfl
@[simp] theorem State.setDelay_dirty (b : Byte) : (s.setDelay b).dirty = s.dirty := rfl
@[simp] theorem State.setDelay_params (b : Byte) : (s.setDelay b).params = s.params := rfl
@[simp] theorem State.setDelay_draws (b : Byte) : (s.setDelay b).draws = s.draws := rfl
@[simp] theorem State.setDelay_events (b : Byte) : (s.setDelay b).events = s.events := rfl
@[simp] theorem State.setDelay_paused (b : Byte) : (s.setDelay b).paused = s.paused := rfl
@[simp] theorem State.setDelay_script (b : Byte) : (s.setDelay b).script = s.script := rfl
@[simp] theorem State.reg_setDelay (b : Byte) (r : RegIdx) : (s.setDelay b).reg r = s.reg r := rfl
@[simp] theorem State.readByte_setDelay (b : Byte) (p : Nat) : (s.setDelay b).readByte p = s.readByte p := rfl

/-! ### `setSound` -/

@[simp] theorem State.setSound_mem (b : Byte) : (s.setSound b).mem = s.mem := rfl
@[simp] theorem State.setSound_v (b : Byte) : (s.setSound b).v = s.v := rfl
@[simp] theorem State.setSound_i (b : Byte) : (s.setSound b).i = s.i := rfl
@[simp] theorem State.setSound_pc (b : Byte) : (s.setSound b).pc = s.pc := rfl
@[simp] theorem State.setSound_stack (b : Byte) : (s.setSound b).stack = s.stack := rfl
@[simp] theorem State.setSound_sp (b : Byte) : (s.setSound b).sp = s.sp := rfl
@[simp] theorem State.setSound_dt (b : Byte) : (s.setSound b).dt = s.dt := rfl
@[simp] theorem State.setSound_st (b : Byte) : (s.setSound b).st = b := rfl
@[simp] theorem State.setSound_keys (b : Byte) : (s.setSound b).keys = s.keys := rfl
@[simp] theorem State.setSound_disp (b : Byte) : (s.setSound b).disp = s.disp := rfl
@[simp] theorem State.setSound_dirty (b : Byte) : (s.setSound b).dirty = s.dirty := rfl
@[simp] theorem State.setSound_params (b : Byte) : (s.setSound b).params = s.params := rfl
@[simp] theorem State.setSound_draws (b : Byte) : (s.setSound b).draws = s.draws := rfl
@[simp] theorem State.setSound_events (b : Byte) : (s.setSound b).events = s.events := rfl
@[simp] theorem State.setSound_paused (b : Byte) : (s.setSound b).paused = s.paused := rfl
@[simp] theorem State.setSound_script (b : Byte) : (s.setSound b).script = s.script := rfl
@[simp] theorem State.reg_setSound (b : Byte) (r : RegIdx) : (s.setSound b).reg r = s.reg r := rfl
@[simp] theorem State.readByte_setSound (b : Byte) (p : Nat) : (s.setSound b).readByte p = s.readByte p := rfl

/-! ### `setDisplay` -/

@[simp] theorem State.setDisplay_mem (d : Display) : (s.setDisplay d).mem = s.mem := rfl
@[simp] theorem State.setDisplay_v (d : Display) : (s.setDisplay d).v = s.v := rfl
@[simp] theorem State.setDisplay_i (d : Display) : (s.setDisplay d).i = s.i := rfl
@[simp] theorem State.setDisplay_pc (d : Display) : (s.setDisplay d).pc = s.pc := rfl
@[simp] theorem State.setDisplay_stack (d : Display) : (s.setDisplay d).stack = s.stack := rfl
@[simp] theorem State.setDisplay_sp (d : Display) : (s.setDisplay d).sp = s.sp := rfl
@[simp] theorem State.setDisplay_dt (d : Display) : (s.setDisplay d).dt = s.dt := rfl
@[simp] theorem State.setDisplay_st (d : Display) : (s.setDisplay d).st = s.st := rfl
@[simp] theorem State.setDisplay_keys (d : Display) : (s.setDisplay d).keys = s.keys := rfl
@[simp] theorem State.setDisplay_disp (d : Display) : (s.setDisplay d).disp = d := rfl
@[simp] theorem State.setDisplay_dirty (d : Display) : (s.setDisplay d).dirty = s.dirty := rfl
@[simp] theorem State.setDisplay_params (d : Display) : (s.setDisplay d).params = s.params := rfl
@[simp] theorem State.setDisplay_draws (d : Display) : (s.setDisplay d).draws = s.draws := rfl
@[simp] theorem State.setDisplay_events (d : Display) : (s.setDisplay d).events = s.events := rfl
@[simp] theorem State.setDisplay_paused (d : Display) : (s.setDisplay d).paused = s.paused := rfl
@[simp] theorem State.setDisplay_script (d : Display) : (s.setDisplay d).script = s.script := rfl
@[simp] theorem State.reg_setDisplay (d : Display) (r : RegIdx) : (s.setDisplay d).reg r = s.reg r := rfl
@[simp] theorem State.readByte_setDisplay (d : Display) (p : Nat) : (s.setDisplay d).readByte p = s.readByte p := rfl

/-! ### `setDirty` -/

@[simp] theorem State.setDirty_mem (b : Bool) : (s.setDirty b).mem = s.mem := rfl
@[simp] theorem State.setDirty_v (b : Bool) : (s.setDirty b).v = s.v := rfl
@[simp] theorem State.setDirty_i (b : Bool) : (s.setDirty b).i = s.i := rfl
@[simp] theorem State.setDirty_pc (b : Bool) : (s.setDirty b).pc = s.pc := rfl
@[simp] theorem State.setDirty_stack (b : Bool) : (s.setDirty b).stack = s.stack := rfl
@[simp] theorem State.setDirty_sp (b : Bool) : (s.setDirty b).sp = s.sp := rfl
@[simp] theorem State.setDirty_dt (b : Bool) : (s.setDirty b).dt = s.dt := rfl
@[simp] theorem State.setDirty_st (b : Bool) : (s.setDirty b).st = s.st := rfl
@[simp] theorem State.setDirty_keys (b : Bool) : (s.setDirty b).keys = s.keys := rfl
@[simp] theorem State.setDirty_disp (b : Bool) : (s.setDirty b).disp = s.disp := rfl
@[simp] theorem State.setDirty_dirty (b : Bool) : (s.setDirty b).dirty = b := rfl
@[simp] theorem State.setDirty_params (b : Bool) : (s.setDirty b).params = s.params := rfl
@[simp] theorem State.setDirty_draws (b : Bool) : (s.setDirty b).draws = s.draws := rfl
@[simp] theorem State.setDirty_events (b : Bool) : (s.setDirty b).events = s.events := rfl
@[simp] theorem State.setDirty_paused (b : Bool) : (s.setDirty b).paused = s.paused := rfl
@[simp] theorem State.setDirty_script (b : Bool) : (s.setDirty b).script = s.script := rfl
@[simp] theorem State.reg_setDirty (b : Bool) (r : RegIdx) : (s.setDirty b).reg r = s.reg r := rfl
@[simp] theorem State.readByte_setDirty (b : Bool) (p : Nat) : (s.setDirty b).readByte p = s.readByte p := rfl

/-! ### `setKey` -/

@[simp] theorem State.setKey_mem (k : KeyCode) (b : Bool) : (s.setKey k b).mem = s.mem := rfl
@[simp] theorem State.setKey_v (k : KeyCode) (b : Bool) : (s.setKey k b).v = s.v := rfl
@[simp] theorem State.setKey_i (k : KeyCode) (b : Bool) : (s.setKey k b).i = s.i := rfl
@[simp] theorem State.setKey_pc (k : KeyCode) (b : Bool) : (s.setKey k b).pc = s.pc := rfl
@[simp] theorem State.setKey_stack (k : KeyCode) (b : Bool) : (s.setKey k b).stack = s.stack := rfl
@[simp] theorem State.setKey_sp (k : KeyCode) (b : Bool) : (s.setKey k b).sp = s.sp := rfl
@[simp] theorem State.setKey_dt (k : KeyCode) (b : Bool) : (s.setKey k b).dt = s.dt := rfl
@[simp] theorem State.setKey_st (k : KeyCode) (b : Bool) : (s.setKey k b).st = s.st := rfl
@[simp] theorem State.setKey_keys (k : KeyCode) (b : Bool) : (s.setKey k b).keys = s.keys.set k.toNat b := rfl
@[simp] theorem State.setKey_disp (k : KeyCode) (b : Bool) : (s.setKey k b).disp = s.disp := rfl
@[simp] theorem State.setKey_dirty (k : KeyCode) (b : Bool) : (s.setKey k b).dirty = s.dirty := rfl
@[simp] theorem State.setKey_params (k : KeyCode) (b : Bool) : (s.setKey k b).params = s.params := rfl
@[simp] theorem State.setKey_draws (k : KeyCode) (b : Bool) : (s.setKey k b).draws = s.draws := rfl
@[simp] theorem State.setKey_events (k : KeyCode) (b : Bool) : (s.setKey k b).events = s.events := rfl
@[simp] theorem State.setKey_paused (k : KeyCode) (b : Bool) : (s.setKey k b).paused = s.paused := rfl
@[simp] theorem State.setKey_script (k : KeyCode) (b : Bool) : (s.setKey k b).script = s.script := rfl
@[simp] theorem State.reg_setKey (k : KeyCode) (b : Bool) (r : RegIdx) : (s.setKey k b).reg r = s.reg r := rfl
@[simp] theorem State.readByte_setKey (k : KeyCode) (b : Bool) (p : Nat) : (s.setKey k b).readByte p = s.readByte p := rfl

/-! ### `countDraw` -/

@[simp] theorem State.countDraw_mem : s.countDraw.mem = s.mem := rfl
@[simp] theorem State.countDraw_v : s.countDraw.v = s.v := rfl
@[simp] theorem State.countDraw_i : s.countDraw.i = s.i := rfl
@[simp] theorem State.countDraw_pc : s.countDraw.pc = s.pc := rfl
@[simp] theorem State.countDraw_stack : s.countDraw.stack = s.stack := rfl
@[simp] theorem State.countDraw_sp : s.countDraw.sp = s.sp := rfl
@[simp] theorem State.countDraw_dt : s.countDraw.dt = s.dt := rfl
@[simp] theorem State.countDraw_st : s.countDraw.st = s.st := rfl
@[simp] theorem State.countDraw_keys : s.countDraw.keys = s.keys := rfl
@[simp] theorem State.countDraw_disp : s.countDraw.disp = s.disp := rfl
@[simp] theorem State.countDraw_dirty : s.countDraw.dirty = s.dirty := rfl
@[simp] theorem State.countDraw_params : s.countDraw.params = s.params := rfl
@[simp] theorem State.countDraw_draws : s.countDraw.draws = s.draws + 1 := rfl
@[simp] theorem State.countDraw_events : s.countDraw.events = s.events := rfl
@[simp] theorem State.countDraw_paused : s.countDraw.paused = s.paused := rfl
@[simp] theorem State.countDraw_script : s.countDraw.script = s.script := rfl
@[simp] theorem State.reg_countDraw (r : RegIdx) : s.countDraw.reg r = s.reg r := rfl
@[simp] theorem State.readByte_countDraw (p : Nat) : s.countDraw.readByte p = s.readByte p := rfl

/-! ### `setPc` -/

@[simp] theorem State.setPc_mem (w : Word) : (s.setPc w).mem = s.mem := rfl
@[simp] theorem State.setPc_v (w : Word) : (s.setPc w).v = s.v := rfl
@[simp] theorem State.setPc_i (w : Word) : (s.setPc w).i = s.i := rfl
@[simp] theorem State.setPc_pc (w : Word) : (s.setPc w).pc = w := rfl
@[simp] theorem State.setPc_stack (w : Word) : (s.setPc w).stack = s.stack := rfl
@[simp] theorem State.setPc_sp (w : Word) : (s.setPc w).sp = s.sp := rfl
@[simp] theorem State.setPc_dt (w : Word) : (s.setPc w).dt = s.dt := rfl
@[simp] theorem State.setPc_st (w : Word) : (s.setPc w).st = s.st := rfl
@[simp] theorem State.setPc_keys (w : Word) : (s.setPc w).keys = s.keys := rfl
@[simp] theorem State.setPc_disp (w : Word) : (s.setPc w).disp = s.disp := rfl
@[simp] theorem State.setPc_dirty (w : Word) : (s.setPc w).dirty = s.dirty := rfl
@[simp] theorem State.setPc_params (w : Word) : (s.setPc w).params = s.params := rfl
@[simp] theorem State.setPc_draws (w : Word) : (s.setPc w).draws = s.draws := rfl
@[simp] theorem State.setPc_events (w : Word) : (s.setPc w).events = s.events := rfl
@[simp] theorem State.setPc_paused (w : Word) : (s.setPc w).paused = s.paused := rfl
@[simp] theorem State.setPc_script (w : Word) : (s.setPc w).script = s.script := rfl
@[simp] theorem State.reg_setPc (w : Word) (r : RegIdx) : (s.setPc w).reg r = s.reg r := rfl
@[simp] theorem State.readByte_setPc (w : Word) (p : Nat) : (s.setPc w).readByte p = s.readByte p := rfl

/-! ### `advance` -/

@[simp] theorem State.advance_mem : s.advance.mem = s.mem := rfl
@[simp] theorem State.advance_v : s.advance.v = s.v := rfl
@[simp] theorem State.advance_i : s.advance.i = s.i := rfl
@[simp] theorem State.advance_pc : s.advance.pc = s.pc + 2 := rfl
@[simp] theorem State.advance_stack : s.advance.stack = s.stack := rfl
@[simp] theorem State.advance_sp : s.advance.sp = s.sp := rfl
@[simp] theorem State.advance_dt : s.advance.dt = s.dt := rfl
@[simp] theorem State.advance_st : s.advance.st = s.st := rfl
@[simp] theorem State.advance_keys : s.advance.keys = s.keys := rfl
@[simp] theorem State.advance_disp : s.advance.disp = s.disp := rfl
@[simp] theorem State.advance_dirty : s.advance.dirty = s.dirty := rfl
@[simp] theorem State.advance_params : s.advance.params = s.params := rfl
@[simp] theorem State.advance_draws : s.advance.draws = s.draws := rfl
@[simp] theorem State.advance_events : s.advance.events = s.events := rfl
@[simp] theorem State.advance_paused : s.advance.paused = s.paused := rfl
@[simp] theorem State.advance_script : s.advance.script = s.script := rfl
@[simp] theorem State.reg_advance (r : RegIdx) : s.advance.reg r = s.reg r := rfl
@[simp] theorem State.readByte_advance (p : Nat) : s.advance.readByte p = s.readByte p := rfl

/-! ### `skipIf` -/

@[simp] theorem State.skipIf_mem (c : Bool) : (State.skipIf c s).mem = s.mem := rfl
@[simp] theorem State.skipIf_v (c : Bool) : (State.skipIf c s).v = s.v := rfl
@[simp] theorem State.skipIf_i (c : Bool) : (State.skipIf c s).i = s.i := rfl
@[simp] theorem State.skipIf_pc (c : Bool) : (State.skipIf c s).pc = s.pc + if c then 4 else 2 := rfl
@[simp] theorem State.skipIf_stack (c : Bool) : (State.skipIf c s).stack = s.stack := rfl
@[simp] theorem State.skipIf_sp (c : Bool) : (State.skipIf c s).sp = s.sp := rfl
@[simp] theorem State.skipIf_dt (c : Bool) : (State.skipIf c s).dt = s.dt := rfl
@[simp] theorem State.skipIf_st (c : Bool) : (State.skipIf c s).st = s.st := rfl
@[simp] theorem State.skipIf_keys (c : Bool) : (State.skipIf c s).keys = s.keys := rfl
@[simp] theorem State.skipIf_disp (c : Bool) : (State.skipIf c s).disp = s.disp := rfl
@[simp] theorem State.skipIf_dirty (c : Bool) : (State.skipIf c s).dirty = s.dirty := rfl
@[simp] theorem State.skipIf_params (c : Bool) : (State.skipIf c s).params = s.params := rfl
@[simp] theorem State.skipIf_draws (c : Bool) : (State.skipIf c s).draws = s.draws := rfl
@[simp] theorem State.skipIf_events (c : Bool) : (State.skipIf c s).events = s.events := rfl
@[simp] theorem State.skipIf_paused (c : Bool) : (State.skipIf c s).paused = s.paused := rfl
@[simp] theorem State.skipIf_script (c : Bool) : (State.skipIf c s).script = s.script := rfl
@[simp] theorem State.reg_skipIf (c : Bool) (r : RegIdx) : (State.skipIf c s).reg r = s.reg r := rfl
@[simp] theorem State.readByte_skipIf (c : Bool) (p : Nat) : (State.skipIf c s).readByte p = s.readByte p := rfl

/-! ### `push` -/

@[simp] theorem State.push_mem (w : Word) : (s.push w).mem = s.mem := rfl
@[simp] theorem State.push_v (w : Word) : (s.push w).v = s.v := rfl
@[simp] theorem State.push_i (w : Word) : (s.push w).i = s.i := rfl
@[simp] theorem State.push_pc (w : Word) : (s.push w).pc = s.pc := rfl
@[simp] theorem State.push_stack (w : Word) : (s.push w).stack = s.stack.setIfInBounds s.sp w := rfl
@[simp] theorem State.push_sp (w : Word) : (s.push w).sp = s.sp + 1 := rfl
@[simp] theorem State.push_dt (w : Word) : (s.push w).dt = s.dt := rfl
@[simp] theorem State.push_st (w : Word) : (s.push w).st = s.st := rfl
@[simp] theorem State.push_keys (w : Word) : (s.push w).keys = s.keys := rfl
@[simp] theorem State.push_disp (w : Word) : (s.push w).disp = s.disp := rfl
@[simp] theorem State.push_dirty (w : Word) : (s.push w).dirty = s.dirty := rfl
@[simp] theorem State.push_params (w : Word) : (s.push w).params = s.params := rfl
@[simp] theorem State.push_draws (w : Word) : (s.push w).draws = s.draws := rfl
@[simp] theorem State.push_events (w : Word) : (s.push w).events = s.events := rfl
@[simp] theorem State.push_paused (w : Word) : (s.push w).paused = s.paused := rfl
@[simp] theorem State.push_script (w : Word) : (s.push w).script = s.script := rfl
@[simp] theorem State.reg_push (w : Word) (r : RegIdx) : (s.push w).reg r = s.reg r := rfl
@[simp] theorem State.readByte_push (w : Word) (p : Nat) : (s.push w).readByte p = s.readByte p := rfl

/-! ### `pop` -/

@[simp] theorem State.pop_mem : s.pop.mem = s.mem := rfl
@[simp] theorem State.pop_v : s.pop.v = s.v := rfl
@[simp] theorem State.pop_i : s.pop.i = s.i := rfl
@[simp] theorem State.pop_pc : s.pop.pc = s.pc := rfl
@[simp] theorem State.pop_stack : s.pop.stack = s.stack := rfl
@[simp] theorem State.pop_sp : s.pop.sp = s.sp - 1 := rfl
@[simp] theorem State.pop_dt : s.pop.dt = s.dt := rfl
@[simp] theorem State.pop_st : s.pop.st = s.st := rfl
@[simp] theorem State.pop_keys : s.pop.keys = s.keys := rfl
@[simp] theorem State.pop_disp : s.pop.disp = s.disp := rfl
@[simp] theorem State.pop_dirty : s.pop.dirty = s.dirty := rfl
@[simp] theorem State.pop_params : s.pop.params = s.params := rfl
@[simp] theorem State.pop_draws : s.pop.draws = s.draws := rfl
@[simp] theorem State.pop_events : s.pop.events = s.events := rfl
@[simp] theorem State.pop_paused : s.pop.paused = s.paused := rfl
@[simp] theorem State.pop_script : s.pop.script = s.script := rfl
@[simp] theorem State.reg_pop (r : RegIdx) : s.pop.reg r = s.reg r := rfl
@[simp] theorem State.readByte_pop (p : Nat) : s.pop.readByte p = s.readByte p := rfl

/-! ### `emit` -/

@[simp] theorem State.emit_mem (e : Event) : (s.emit e).mem = s.mem := rfl
@[simp] theorem State.emit_v (e : Event) : (s.emit e).v = s.v := rfl
@[simp] theorem State.emit_i (e : Event) : (s.emit e).i = s.i := rfl
@[simp] theorem State.emit_pc (e : Event) : (s.emit e).pc = s.pc := rfl
@[simp] theorem State.emit_stack (e : Event) : (s.emit e).stack = s.stack := rfl
@[simp] theorem State.emit_sp (e : Event) : (s.emit e).sp = s.sp := rfl
@[simp] theorem State.emit_dt (e : Event) : (s.emit e).dt = s.dt := rfl
@[simp] theorem State.emit_st (e : Event) : (s.emit e).st = s.st := rfl
@[simp] theorem State.emit_keys (e : Event) : (s.emit e).keys = s.keys := rfl
@[simp] theorem State.emit_disp (e : Event) : (s.emit e).disp = s.disp := rfl
@[simp] theorem State.emit_dirty (e : Event) : (s.emit e).dirty = s.dirty := rfl
@[simp] theorem State.emit_params (e : Event) : (s.emit e).params = s.params := rfl
@[simp] theorem State.emit_draws (e : Event) : (s.emit e).draws = s.draws := rfl
@[simp] theorem State.emit_events (e : Event) : (s.emit e).events = s.events ++ [e] := rfl
@[simp] theorem State.emit_paused (e : Event) : (s.emit e).paused = s.paused := rfl
@[simp] theorem State.emit_script (e : Event) : (s.emit e).script = s.script := rfl
@[simp] theorem State.reg_emit (e : Event) (r : RegIdx) : (s.emit e).reg r = s.reg r := rfl
@[simp] theorem State.readByte_emit (e : Event) (p : Nat) : (s.emit e).readByte p = s.readByte p := rfl

/-! ### `clearEvents` -/

@[simp] theorem State.clearEvents_mem : s.clearEvents.mem = s.mem := rfl
@[simp] theorem State.clearEvents_v : s.clearEvents.v = s.v := rfl
@[simp] theorem State.clearEvents_i : s.clearEvents.i = s.i := rfl
@[simp] theorem State.clearEvents_pc : s.clearEvents.pc = s.pc := rfl
@[simp] theorem State.clearEvents_stack : s.clearEvents.stack = s.stack := rfl
@[simp] theorem State.clearEvents_sp : s.clearEvents.sp = s.sp := rfl
@[simp] theorem State.clearEvents_dt : s.clearEvents.dt = s.dt := rfl
@[simp] theorem State.clearEvents_st : s.clearEvents.st = s.st := rfl
@[simp] theorem State.clearEvents_keys : s.clearEvents.keys = s.keys := rfl
@[simp] theorem State.clearEvents_disp : s.clearEvents.disp = s.disp := rfl
@[simp] theorem State.clearEvents_dirty : s.clearEvents.dirty = s.dirty := rfl
@[simp] theorem State.clearEvents_params : s.clearEvents.params = s.params := rfl
@[simp] theorem State.clearEvents_draws : s.clearEvents.draws = s.draws := rfl
@[simp] theorem State.clearEvents_events : s.clearEvents.events = [] := rfl
@[simp] theorem State.clearEvents_paused : s.clearEvents.paused = s.paused := rfl
@[simp] theorem State.clearEvents_script : s.clearEvents.script = s.script := rfl
@[simp] theorem State.reg_clearEvents (r : RegIdx) : s.clearEvents.reg r = s.reg r := rfl
@[simp] theorem State.readByte_clearEvents (p : Nat) : s.clearEvents.readByte p = s.readByte p := rfl

/-! ### Registers read back -/

@[simp] theorem State.reg_setReg_self (x : RegIdx) (b : Byte) : (s.setReg x b).reg x = b := by
  simp [State.reg]

theorem State.reg_setReg (x r : RegIdx) (b : Byte) :
    (s.setReg x b).reg r = if r = x then b else s.reg r := by
  by_cases h : r = x
  · subst h; simp
  · have : x.toNat ≠ r.toNat := fun e => h (BitVec.eq_of_toNat_eq e.symm)
    simp [State.reg, this, h]

@[simp] theorem State.reg_setReg_of_ne {x r : RegIdx} (b : Byte) (h : r ≠ x) :
    (s.setReg x b).reg r = s.reg r := by
  simp [State.reg_setReg, h]

end Sys2Proof.Machine
end

