-- ==== Sys2Proof/Laws/Memory.lean ====
section
/-! SUPPORT. The laws of memory: read after write, and every write within the address space keeps the
canonical form. -/

namespace Sys2Proof.Machine

/-! ### Read after write -/

theorem Memory.read_insert (font : Vector Byte 80) (c : Host.Cell) (m : Memory) (p : Nat)
    (h : ∀ d ∈ m, d.1 ≠ c.1) :
    Memory.read font (Memory.insert c m) p = if p = c.1 then c.2 else Memory.read font m p := by
  induction m with
  | nil => simp [Memory.insert, Memory.read, eq_comm]
  | cons d m ih =>
    have hd : d.1 ≠ c.1 := h d (by simp)
    have ih := ih fun e he => h e (by simp [he])
    unfold Memory.insert
    split
    · simp [Memory.read, eq_comm]
    · by_cases hp : p = c.1
      · subst hp; simp [Memory.read, hd, ih]
      · simp [Memory.read, hp, ih]

theorem Memory.read_filter_of_ne (font : Vector Byte 80) (m : Memory) {a p : Nat} (h : p ≠ a) :
    Memory.read font (m.filter fun c => c.1 != a) p = Memory.read font m p := by
  induction m with
  | nil => rfl
  | cons d m ih =>
    by_cases hd : d.1 = a
    · have : d.1 ≠ p := by omega
      simp [hd, Memory.read, ih, Ne.symm h]
    · simp [hd, Memory.read, ih]

theorem Memory.read_filter_self (font : Vector Byte 80) (m : Memory) (a : Nat) :
    Memory.read font (m.filter fun c => c.1 != a) a = Memory.unlisted font a := by
  induction m with
  | nil => rfl
  | cons d m ih => by_cases hd : d.1 = a <;> simp [hd, Memory.read, ih]

/-- A read after a write: the byte written at its address, the old byte elsewhere. -/
theorem Memory.read_write (font : Vector Byte 80) (m : Memory) (a : Nat) (b : Byte) (p : Nat) :
    Memory.read font (Memory.write font m a b) p = if p = a then b else Memory.read font m p := by
  unfold Memory.write
  by_cases hp : p = a
  · subst hp
    split
    · rename_i hb; simp [hb, Memory.read_filter_self]
    · rw [Memory.read_insert] <;> simp
  · split
    · simp [hp, Memory.read_filter_of_ne]
    · rw [Memory.read_insert] <;> simp [hp, Memory.read_filter_of_ne]

theorem State.readByte_writeByte (s : State) (a : Nat) (b : Byte) (p : Nat) :
    (s.writeByte a b).readByte p = if p = a then b else s.readByte p :=
  Memory.read_write s.params.font s.mem a b p

/-! ### The canonical form is kept -/

theorem Memory.wf_nil (font : Vector Byte 80) : Memory.wf font [] = true := rfl

theorem Memory.wfFrom_cons_iff (font : Vector Byte 80) (lo : Nat) (c : Host.Cell) (m : Memory) :
    Memory.wfFrom font lo (c :: m) = true ↔
      lo ≤ c.1 ∧ c.1 < 4096 ∧ c.2 ≠ Memory.unlisted font c.1 ∧ Memory.wfFrom font (c.1 + 1) m = true := by
  simp [Memory.wfFrom, and_assoc]

theorem Memory.wfFrom_mono (font : Vector Byte 80) {m : Memory} {lo lo' : Nat} (h : lo' ≤ lo)
    (hw : Memory.wfFrom font lo m = true) : Memory.wfFrom font lo' m = true := by
  cases m with
  | nil => rfl
  | cons c m =>
    rw [Memory.wfFrom_cons_iff] at hw ⊢
    exact ⟨by omega, hw.2⟩

theorem Memory.wfFrom_filter (font : Vector Byte 80) {m : Memory} {lo : Nat} (a : Nat)
    (hw : Memory.wfFrom font lo m = true) :
    Memory.wfFrom font lo (m.filter fun c => c.1 != a) = true := by
  induction m generalizing lo with
  | nil => rfl
  | cons c m ih =>
    rw [Memory.wfFrom_cons_iff] at hw
    obtain ⟨hlo, ha, hv, hm⟩ := hw
    by_cases hc : c.1 = a
    · simpa [hc] using Memory.wfFrom_mono font (by omega) (ih hm)
    · simpa [hc, Memory.wfFrom_cons_iff] using ⟨hlo, ha, hv, ih hm⟩

theorem Memory.wfFrom_insert (font : Vector Byte 80) {m : Memory} {lo : Nat} {c : Host.Cell}
    (hlo : lo ≤ c.1) (hc : c.1 < 4096) (hv : c.2 ≠ Memory.unlisted font c.1) (hne : ∀ d ∈ m, d.1 ≠ c.1)
    (hw : Memory.wfFrom font lo m = true) : Memory.wfFrom font lo (Memory.insert c m) = true := by
  induction m generalizing lo with
  | nil => simp [Memory.insert, Memory.wfFrom, hlo, hc, hv]
  | cons d m ih =>
    rw [Memory.wfFrom_cons_iff] at hw
    have hd : d.1 ≠ c.1 := hne d (by simp)
    unfold Memory.insert
    split
    · simp only [Memory.wfFrom_cons_iff]
      exact ⟨hlo, hc, hv, by omega, hw.2⟩
    · rw [Memory.wfFrom_cons_iff]
      exact ⟨hw.1, hw.2.1, hw.2.2.1, ih (by omega) (fun e he => hne e (by simp [he])) hw.2.2.2⟩

/-- Every write within the address space keeps the canonical form. -/
theorem Memory.wf_write (font : Vector Byte 80) {m : Memory} {a : Nat} (b : Byte) (ha : a < 4096)
    (hw : Memory.wf font m = true) : Memory.wf font (Memory.write font m a b) = true := by
  unfold Memory.write
  have hf := Memory.wfFrom_filter font a hw
  split
  · exact hf
  · rename_i hb
    exact Memory.wfFrom_insert font (c := (a, b)) (Nat.zero_le a) ha hb (by simp) hf

/-- A byte write within the address space keeps the invariant. -/
theorem State.inv_writeByte {s : State} {a : Nat} (b : Byte) (ha : a < 4096) (h : s.Inv) :
    (s.writeByte a b).Inv :=
  ⟨h.1, Memory.wf_write s.params.font b ha h.2⟩

end Sys2Proof.Machine
end

