-- ==== Sys2Proof/Laws/Ops.lean ====
section
/-! SUPPORT. What each shared operation of Ops, Operands and Flags can do, said once. -/

namespace Sys2Proof.Machine

/-! ### Byte stores at ascending addresses -/

/-- `storeBytes` writes memory only. -/
theorem State.storeBytes_eq (s : State) (a : Nat) (bs : List Byte) :
    s.storeBytes a bs = { s with mem := (s.storeBytes a bs).mem } := by
  induction bs generalizing s a with
  | nil => rfl
  | cons b bs ih => simp only [State.storeBytes]; rw [ih]; rfl

@[simp] theorem State.storeBytes_v (s : State) (a : Nat) (bs : List Byte) :
    (s.storeBytes a bs).v = s.v := by rw [State.storeBytes_eq]
@[simp] theorem State.storeBytes_i (s : State) (a : Nat) (bs : List Byte) :
    (s.storeBytes a bs).i = s.i := by rw [State.storeBytes_eq]
@[simp] theorem State.storeBytes_pc (s : State) (a : Nat) (bs : List Byte) :
    (s.storeBytes a bs).pc = s.pc := by rw [State.storeBytes_eq]
@[simp] theorem State.storeBytes_stack (s : State) (a : Nat) (bs : List Byte) :
    (s.storeBytes a bs).stack = s.stack := by rw [State.storeBytes_eq]
@[simp] theorem State.storeBytes_sp (s : State) (a : Nat) (bs : List Byte) :
    (s.storeBytes a bs).sp = s.sp := by rw [State.storeBytes_eq]
@[simp] theorem State.storeBytes_dt (s : State) (a : Nat) (bs : List Byte) :
    (s.storeBytes a bs).dt = s.dt := by rw [State.storeBytes_eq]
@[simp] theorem State.storeBytes_st (s : State) (a : Nat) (bs : List Byte) :
    (s.storeBytes a bs).st = s.st := by rw [State.storeBytes_eq]
@[simp] theorem State.storeBytes_keys (s : State) (a : Nat) (bs : List Byte) :
    (s.storeBytes a bs).keys = s.keys := by rw [State.storeBytes_eq]
@[simp] theorem State.storeBytes_disp (s : State) (a : Nat) (bs : List Byte) :
    (s.storeBytes a bs).disp = s.disp := by rw [State.storeBytes_eq]
@[simp] theorem State.storeBytes_dirty (s : State) (a : Nat) (bs : List Byte) :
    (s.storeBytes a bs).dirty = s.dirty := by rw [State.storeBytes_eq]
@[simp] theorem State.storeBytes_params (s : State) (a : Nat) (bs : List Byte) :
    (s.storeBytes a bs).params = s.params := by rw [State.storeBytes_eq]
@[simp] theorem State.storeBytes_draws (s : State) (a : Nat) (bs : List Byte) :
    (s.storeBytes a bs).draws = s.draws := by rw [State.storeBytes_eq]
@[simp] theorem State.storeBytes_events (s : State) (a : Nat) (bs : List Byte) :
    (s.storeBytes a bs).events = s.events := by rw [State.storeBytes_eq]
@[simp] theorem State.storeBytes_paused (s : State) (a : Nat) (bs : List Byte) :
    (s.storeBytes a bs).paused = s.paused := by rw [State.storeBytes_eq]
@[simp] theorem State.storeBytes_script (s : State) (a : Nat) (bs : List Byte) :
    (s.storeBytes a bs).script = s.script := by rw [State.storeBytes_eq]

@[simp] theorem State.reg_storeBytes (s : State) (a : Nat) (bs : List Byte) (r : RegIdx) :
    (s.storeBytes a bs).reg r = s.reg r := by rw [State.storeBytes_eq]; rfl

/-- After `storeBytes` the stored addresses hold the bytes in order, every other address what it held. -/
theorem State.readByte_storeBytes (s : State) (a : Nat) (bs : List Byte) (p : Nat) :
    (s.storeBytes a bs).readByte p = if a ≤ p then (bs[p - a]?).getD (s.readByte p) else s.readByte p := by
  induction bs generalizing s a with
  | nil => simp [State.storeBytes]
  | cons b bs ih =>
    simp only [State.storeBytes, ih, State.readByte_writeByte]
    by_cases h : a + 1 ≤ p
    · have h1 : a ≤ p := by omega
      have h2 : p ≠ a := by omega
      obtain ⟨d, hd⟩ : ∃ d, p - a = d + 1 := ⟨p - a - 1, by omega⟩
      have h3 : p - (a + 1) = d := by omega
      simp [h, h1, h2, hd, h3]
    · by_cases hp : p = a
      · subst hp; simp
      · have h1 : ¬ a ≤ p := by omega
        simp [h, h1, hp]

/-- `storeBytes` within the address space keeps the invariant. -/
theorem State.inv_storeBytes {s : State} {a : Nat} {bs : List Byte} (ha : a + bs.length ≤ 4096)
    (h : s.Inv) : (s.storeBytes a bs).Inv := by
  induction bs generalizing s a with
  | nil => exact h
  | cons b bs ih =>
    simp only [List.length_cons] at ha
    exact ih (by omega) (State.inv_writeByte b (by omega) h)

/-! ### Register blocks -/

/-- `setRegsFrom` writes registers only. -/
theorem State.setRegsFrom_eq (s : State) (k : Nat) (bs : List Byte) :
    s.setRegsFrom k bs = { s with v := (s.setRegsFrom k bs).v } := by
  induction bs generalizing s k with
  | nil => rfl
  | cons b bs ih => simp only [State.setRegsFrom]; rw [ih]; rfl

@[simp] theorem State.setRegsFrom_mem (s : State) (k : Nat) (bs : List Byte) :
    (s.setRegsFrom k bs).mem = s.mem := by rw [State.setRegsFrom_eq]
@[simp] theorem State.setRegsFrom_i (s : State) (k : Nat) (bs : List Byte) :
    (s.setRegsFrom k bs).i = s.i := by rw [State.setRegsFrom_eq]
@[simp] theorem State.setRegsFrom_pc (s : State) (k : Nat) (bs : List Byte) :
    (s.setRegsFrom k bs).pc = s.pc := by rw [State.setRegsFrom_eq]
@[simp] theorem State.setRegsFrom_stack (s : State) (k : Nat) (bs : List Byte) :
    (s.setRegsFrom k bs).stack = s.stack := by rw [State.setRegsFrom_eq]
@[simp] theorem State.setRegsFrom_sp (s : State) (k : Nat) (bs : List Byte) :
    (s.setRegsFrom k bs).sp = s.sp := by rw [State.setRegsFrom_eq]
@[simp] theorem State.setRegsFrom_dt (s : State) (k : Nat) (bs : List Byte) :
    (s.setRegsFrom k bs).dt = s.dt := by rw [State.setRegsFrom_eq]
@[simp] theorem State.setRegsFrom_st (s : State) (k : Nat) (bs : List Byte) :
    (s.setRegsFrom k bs).st = s.st := by rw [State.setRegsFrom_eq]
@[simp] theorem State.setRegsFrom_keys (s : State) (k : Nat) (bs : List Byte) :
    (s.setRegsFrom k bs).keys = s.keys := by rw [State.setRegsFrom_eq]
@[simp] theorem State.setRegsFrom_disp (s : State) (k : Nat) (bs : List Byte) :
    (s.setRegsFrom k bs).disp = s.disp := by rw [State.setRegsFrom_eq]
@[simp] theorem State.setRegsFrom_dirty (s : State) (k : Nat) (bs : List Byte) :
    (s.setRegsFrom k bs).dirty = s.dirty := by rw [State.setRegsFrom_eq]
@[simp] theorem State.setRegsFrom_params (s : State) (k : Nat) (bs : List Byte) :
    (s.setRegsFrom k bs).params = s.params := by rw [State.setRegsFrom_eq]
@[simp] theorem State.setRegsFrom_draws (s : State) (k : Nat) (bs : List Byte) :
    (s.setRegsFrom k bs).draws = s.draws := by rw [State.setRegsFrom_eq]
@[simp] theorem State.setRegsFrom_events (s : State) (k : Nat) (bs : List Byte) :
    (s.setRegsFrom k bs).events = s.events := by rw [State.setRegsFrom_eq]
@[simp] theorem State.setRegsFrom_paused (s : State) (k : Nat) (bs : List Byte) :
    (s.setRegsFrom k bs).paused = s.paused := by rw [State.setRegsFrom_eq]
@[simp] theorem State.setRegsFrom_script (s : State) (k : Nat) (bs : List Byte) :
    (s.setRegsFrom k bs).script = s.script := by rw [State.setRegsFrom_eq]

@[simp] theorem State.readByte_setRegsFrom (s : State) (k : Nat) (bs : List Byte) (p : Nat) :
    (s.setRegsFrom k bs).readByte p = s.readByte p := by rw [State.setRegsFrom_eq]; rfl

/-- After `setRegsFrom` the registers from `k` on hold the bytes in order, the others what they held. -/
theorem State.reg_setRegsFrom (s : State) (k : Nat) (bs : List Byte) (r : RegIdx)
    (hk : k + bs.length ≤ 16) :
    (s.setRegsFrom k bs).reg r =
      if k ≤ r.toNat then (bs[r.toNat - k]?).getD (s.reg r) else s.reg r := by
  induction bs generalizing s k with
  | nil => simp [State.setRegsFrom]
  | cons b bs ih =>
    simp only [List.length_cons] at hk
    simp only [State.setRegsFrom, ih (s.setReg (BitVec.ofNat 4 k) b) (k + 1) (by omega), State.reg_setReg]
    have hr : (r = BitVec.ofNat 4 k) ↔ r.toNat = k := by
      rw [← BitVec.toNat_inj, BitVec.toNat_ofNat, Nat.mod_eq_of_lt (by omega)]
    simp only [hr]
    by_cases h : k + 1 ≤ r.toNat
    · have h1 : k ≤ r.toNat := by omega
      have h2 : r.toNat ≠ k := by omega
      obtain ⟨d, hd⟩ : ∃ d, r.toNat - k = d + 1 := ⟨r.toNat - k - 1, by omega⟩
      have h3 : r.toNat - (k + 1) = d := by omega
      simp [h, h1, h2, hd, h3]
    · by_cases hp : r.toNat = k
      · simp [hp]
      · have h1 : ¬ k ≤ r.toNat := by omega
        simp [h, h1, hp]

@[simp] theorem State.regsUpTo_length (s : State) (x : RegIdx) : (s.regsUpTo x).length = x.toNat + 1 := by
  simp [State.regsUpTo]

theorem State.regsUpTo_getElem? (s : State) (x : RegIdx) (k : Nat) :
    (s.regsUpTo x)[k]? = if k ≤ x.toNat then some (s.reg (BitVec.ofNat 4 k)) else none := by
  by_cases h : k ≤ x.toNat
  · simp [State.regsUpTo, h, Nat.lt_succ_of_le h]
  · simp [State.regsUpTo, h]

@[simp] theorem State.regsUpTo_getElem (s : State) (x : RegIdx) (k : Nat) (h : k < (s.regsUpTo x).length) :
    (s.regsUpTo x)[k] = s.reg (BitVec.ofNat 4 k) := by
  simp [State.regsUpTo]

@[simp] theorem State.bytesAtIndex_getElem (s : State) (n k : Nat) (h : k < (s.bytesAtIndex n).length) :
    (s.bytesAtIndex n)[k] = s.readByte (s.i.toNat + k) := by
  simp [State.bytesAtIndex, State.indexed]

@[simp] theorem State.bytesAtIndex_length (s : State) (n : Nat) : (s.bytesAtIndex n).length = n := by
  simp [State.bytesAtIndex]

theorem State.bytesAtIndex_getElem? (s : State) (n k : Nat) :
    (s.bytesAtIndex n)[k]? = if k < n then some (s.readByte (s.i.toNat + k)) else none := by
  by_cases h : k < n
  · simp [State.bytesAtIndex, State.indexed, h]
  · simp [State.bytesAtIndex, h]

/-! ### The range test -/

theorem State.reaches_iff (s : State) (n : Nat) :
    s.reaches n = true ↔ (0 < n → s.i.toNat + n ≤ 4096) := by
  cases n with
  | zero => simp [State.reaches]
  | succ n => simp [State.reaches]

/-- The range test passes: the instruction's next state. -/
theorem State.ranged_ok {s : State} {n : Nat} (w : Word) (t : State)
    (h : 0 < n → s.i.toNat + n ≤ 4096) : s.ranged w n t = .next t := by
  simp [State.ranged, (s.reaches_iff n).2 h]

/-- The range test fails: MEM_RANGE. -/
theorem State.ranged_fault {s : State} {n : Nat} (w : Word) (t : State)
    (h0 : 0 < n) (h : 4096 < s.i.toNat + n) : s.ranged w n t = .fault (.memRange w s.i) := by
  have : ¬ s.reaches n = true := by rw [State.reaches_iff]; intro g; have := g h0; omega
  simp [State.ranged, this]

/-- All that a ranged instruction can answer. -/
theorem State.ranged_cases (s : State) (n : Nat) (w : Word) (t : State) :
    ((0 < n → s.i.toNat + n ≤ 4096) ∧ s.ranged w n t = .next t) ∨
      (0 < n ∧ 4096 < s.i.toNat + n ∧ s.ranged w n t = .fault (.memRange w s.i)) := by
  by_cases h : 0 < n → s.i.toNat + n ≤ 4096
  · exact .inl ⟨h, State.ranged_ok w t h⟩
  · rw [Classical.not_imp] at h
    exact .inr ⟨h.1, by omega, State.ranged_fault w t h.1 (by omega)⟩

theorem State.ranged_next {s : State} {n : Nat} {w : Word} {t u : State} (h : s.ranged w n t = .next u) :
    (0 < n → s.i.toNat + n ≤ 4096) ∧ u = t := by
  rcases s.ranged_cases n w t with ⟨hn, he⟩ | ⟨_, _, he⟩
  · rw [he] at h; exact ⟨hn, by cases h; rfl⟩
  · rw [he] at h; cases h

/-! ### Flag, then result -/

@[simp] theorem flagReg_eq : flagReg = 15 := rfl

@[simp] theorem flagByte_toNat (c : Bool) : (flagByte c).toNat = if c then 1 else 0 := by cases c <;> rfl

theorem carryFlag_toNat (a b : Byte) : (carryFlag a b).toNat = if b.toNat > 255 - a.toNat then 1 else 0 := by
  simp [carryFlag]

theorem greaterFlag_toNat (a b : Byte) : (greaterFlag a b).toNat = if a.toNat > b.toNat then 1 else 0 := by
  simp [greaterFlag]

/-- The result is what remains in register 15 when it is the destination (R123). -/
theorem State.reg_flagThenResult (s : State) (x r : RegIdx) (f b : Byte) :
    (s.flagThenResult x f b).reg r = if r = x then b else if r = 15 then f else s.reg r := by
  simp [State.flagThenResult, State.reg_setReg, flagReg]

@[simp] theorem State.flagThenResult_pc (s : State) (x : RegIdx) (f b : Byte) :
    (s.flagThenResult x f b).pc = s.pc + 2 := rfl

/-- `flagThenResult` writes registers and PC only. -/
theorem State.flagThenResult_eq (s : State) (x : RegIdx) (f b : Byte) :
    s.flagThenResult x f b = { s with v := (s.flagThenResult x f b).v, pc := s.pc + 2 } := rfl

/-! ### Call stack -/

/-- A push puts the word on top. -/
theorem State.top_push (s : State) (w : Word) (h : s.sp < 16) : (s.push w).top = w := by
  simp [State.top, h]

/-- A pop after a push gives back SP. -/
theorem State.pop_push_sp (s : State) (w : Word) : ((s.push w).pop).sp = s.sp := by simp

/-! ### Soft faults -/

/-- A soft fault always goes on, in the same state with one more event (R160). -/
theorem softFault_eq (c : Cause) (w : Word) (s : State) :
    softFault c w s = .next { s with events := s.events ++ [.log c w] } := rfl

/-- All that the unrecognized word can do (R84, R166). -/
theorem unrecognized_cases (w : Word) (s : State) :
    (s.params.strict = true ∧ unrecognized w s = .fault (.unrecognizedStrict w)) ∨
      (s.params.strict = false ∧ unrecognized w s = .next (s.emit (.log .unrecognized w))) := by
  cases h : s.params.strict <;> simp [unrecognized, h, softFault]

/-! ### Keys -/

theorem State.pressed_of_lt (s : State) (b : Byte) (h : b.toNat < 16) :
    s.pressed b = s.keys[b.toNat] := by simp [State.pressed, h]

theorem State.pressed_of_ge (s : State) (b : Byte) (h : 16 ≤ b.toNat) : s.pressed b = false := by
  simp [State.pressed, h]

theorem State.mem_pressedKeys (s : State) (k : Fin 16) : k ∈ s.pressedKeys ↔ s.keys[k] = true := by
  simp [State.pressedKeys]

theorem selectKey_eq_none_iff (n : Nat) (l : List (Fin 16)) : selectKey n l = none ↔ l = [] := by
  match l with
  | [] => simp [selectKey]
  | [_] => simp [selectKey]
  | _ :: _ :: _ => simp [selectKey]

/-- The key drawn is a member of the set (R152). -/
theorem selectKey_mem {n : Nat} {l : List (Fin 16)} {k : Fin 16} (h : selectKey n l = some k) : k ∈ l := by
  match l, h with
  | [a], h => simp [selectKey] at h; simp [h]
  | a :: b :: l, h =>
    have hl : Config.keyChoice n % (a :: b :: l).length < (a :: b :: l).length :=
      Nat.mod_lt _ (by simp)
    simp only [selectKey, List.getD_eq_getElem?_getD, List.getElem?_eq_getElem hl, Option.getD_some,
      Option.some.injEq] at h
    rw [← h]
    exact List.getElem_mem hl

end Sys2Proof.Machine
end

