-- ==== Sys2Proof/Laws/Display.lean ====
section
/-! SUPPORT. What drawing does, pixel by pixel: one lemma each for a pixel, a row and a sprite
(spec/45_display.md R141 to R143). -/

namespace Sys2Proof.Machine

theorem pixelAt_eq (d : Display) {x y : Nat} (hx : x < 64) (hy : y < 32) : pixelAt d x y = some d[y][x] := by
  simp [pixelAt, hx, hy]

theorem pixelAt_isSome_iff (d : Display) (x y : Nat) : (pixelAt d x y).isSome ↔ x < 64 ∧ y < 32 := by
  by_cases hy : y < 32
  · by_cases hx : x < 64 <;> simp [pixelAt, hx, hy]
  · simp [pixelAt, hy]

theorem pixelAt_none (d : Display) {x y : Nat} (h : ¬ (x < 64 ∧ y < 32)) : pixelAt d x y = none := by
  rw [← pixelAt_isSome_iff d] at h; simpa using h

theorem getElem_setPixel (d : Display) (x y : Nat) (b : Bool) {cx cy : Nat} (hx : cx < 64) (hy : cy < 32) :
    (setPixel d x y b)[cy][cx] = if cx = x ∧ cy = y then b else d[cy][cx] := by
  unfold setPixel
  split
  · by_cases h : y = cy
    · subst h
      by_cases h' : x = cx
      · subst h'; simp
      · simp [Vector.getElem_setIfInBounds_ne, h', Ne.symm h']
    · simp [h, Ne.symm h]
  · have : cy ≠ y := by omega
    simp [this]

/-- The sprite bit of the rows `bs` at (`x`, `y`) on column `cx` of row `cy`. -/
def rowsBit (x y : Nat) (bs : List Byte) (cx cy : Nat) : Bool :=
  decide (x ≤ cx) && decide (cx < x + 8) && decide (y ≤ cy) &&
    ((bs[cy - y]?).getD 0).getLsbD (7 - (cx - x))

/-- One pixel: it flips where the bit is 1 and it is in bounds, and nothing else changes. -/
theorem drawPixel_pixel (x y : Nat) (bit : Bool) (c : Canvas) {cx cy : Nat} (hx : cx < 64) (hy : cy < 32) :
    (drawPixel x y bit c).disp[cy][cx] =
      (c.disp[cy][cx] ^^ (bit && decide (cx = x) && decide (cy = y))) := by
  cases bit with
  | false => simp [drawPixel]
  | true =>
    by_cases hb : x < 64 ∧ y < 32
    · simp only [drawPixel, pixelAt_eq c.disp hb.1 hb.2, getElem_setPixel _ _ _ _ hx hy]
      by_cases h : cx = x ∧ cy = y
      · obtain ⟨rfl, rfl⟩ := h; simp
      · rw [if_neg h]; simp only [not_and_or] at h; rcases h with h | h <;> simp [h]
    · have : ¬ (cx = x ∧ cy = y) := by omega
      simp only [drawPixel, pixelAt_none c.disp hb]
      simp only [not_and_or] at this; rcases this with h | h <;> simp [h]

/-- One pixel collides where the bit is 1 and the pixel was lit. -/
theorem drawPixel_collision (x y : Nat) (bit : Bool) (c : Canvas) :
    (drawPixel x y bit c).collision = (c.collision || (bit && (pixelAt c.disp x y).getD false)) := by
  cases bit <;> cases h : pixelAt c.disp x y <;> simp [drawPixel, h]

/-- The first `m` columns of a row. -/
theorem drawCols_pixel (x y : Nat) (b : Byte) (c : Canvas) (m : Nat) (hm : m ≤ 8) {cx cy : Nat}
    (hx : cx < 64) (hy : cy < 32) :
    ((List.range m).foldl (fun c k => drawPixel (x + k) y (b.getLsbD (7 - k)) c) c).disp[cy][cx] =
      (c.disp[cy][cx] ^^
        (decide (x ≤ cx) && decide (cx < x + m) && decide (cy = y) && b.getLsbD (7 - (cx - x)))) := by
  induction m with
  | zero =>
    by_cases h : x ≤ cx
    · simp [Nat.not_lt.2 h]
    · simp [h]
  | succ m ih =>
    rw [List.range_succ, List.foldl_append, List.foldl_cons, List.foldl_nil, drawPixel_pixel _ _ _ _ hx hy,
      ih (by omega), Bool.xor_assoc]
    congr 1
    by_cases hr : cy = y
    · by_cases h : cx = x + m
      · subst h; simp [hr]
      · have h1 : (cx < x + (m + 1)) ↔ cx < x + m := by omega
        simp [h, h1]
    · simp [hr]

/-- One row of a sprite, pixel by pixel. -/
theorem drawRow_pixel (x y : Nat) (b : Byte) (c : Canvas) {cx cy : Nat} (hx : cx < 64) (hy : cy < 32) :
    (drawRow x y b c).disp[cy][cx] =
      (c.disp[cy][cx] ^^
        (decide (x ≤ cx) && decide (cx < x + 8) && decide (cy = y) && b.getLsbD (7 - (cx - x)))) :=
  drawCols_pixel x y b c 8 (Nat.le_refl 8) hx hy

theorem drawCols_collision (x y : Nat) (b : Byte) (c : Canvas) (m : Nat) (hm : m ≤ 8) :
    ((List.range m).foldl (fun c k => drawPixel (x + k) y (b.getLsbD (7 - k)) c) c).collision = true ↔
      c.collision = true ∨
        ∃ k, k < m ∧ b.getLsbD (7 - k) = true ∧ pixelAt c.disp (x + k) y = some true := by
  induction m with
  | zero => simp
  | succ m ih =>
    rw [List.range_succ, List.foldl_append, List.foldl_cons, List.foldl_nil, drawPixel_collision,
      Bool.or_eq_true, ih (by omega)]
    have hp : (pixelAt ((List.range m).foldl (fun c k => drawPixel (x + k) y (b.getLsbD (7 - k)) c) c).disp
        (x + m) y).getD false = (pixelAt c.disp (x + m) y).getD false := by
      by_cases hb : x + m < 64 ∧ y < 32
      · rw [pixelAt_eq _ hb.1 hb.2, pixelAt_eq _ hb.1 hb.2, Option.getD_some, Option.getD_some,
          drawCols_pixel x y b c m (by omega) hb.1 hb.2]
        simp
      · rw [pixelAt_none _ hb, pixelAt_none _ hb]
    rw [hp, Bool.and_eq_true]
    constructor
    · rintro ((h | ⟨k, hk, h⟩) | ⟨h1, h2⟩)
      · exact .inl h
      · exact .inr ⟨k, by omega, h⟩
      · refine .inr ⟨m, by omega, h1, ?_⟩
        cases h : pixelAt c.disp (x + m) y <;> simp_all
    · rintro (h | ⟨k, hk, h1, h2⟩)
      · exact .inl (.inl h)
      · by_cases hkm : k = m
        · subst hkm; exact .inr ⟨h1, by simp [h2]⟩
        · exact .inl (.inr ⟨k, by omega, h1, h2⟩)

/-- One row of a sprite collides where one of its bits meets a lit pixel. -/
theorem drawRow_collision (x y : Nat) (b : Byte) (c : Canvas) :
    (drawRow x y b c).collision = true ↔
      c.collision = true ∨
        ∃ k, k < 8 ∧ b.getLsbD (7 - k) = true ∧ pixelAt c.disp (x + k) y = some true :=
  drawCols_collision x y b c 8 (Nat.le_refl 8)

theorem rowsBit_nil (x y cx cy : Nat) : rowsBit x y [] cx cy = false := by simp [rowsBit]

theorem rowsBit_cons (x y : Nat) (b : Byte) (bs : List Byte) (cx cy : Nat) :
    rowsBit x y (b :: bs) cx cy =
      ((decide (x ≤ cx) && decide (cx < x + 8) && decide (cy = y) && b.getLsbD (7 - (cx - x))) ^^
        rowsBit x (y + 1) bs cx cy) := by
  unfold rowsBit
  by_cases h : cy = y
  · subst h; simp
  · by_cases hy : y + 1 ≤ cy
    · have h1 : y ≤ cy := by omega
      obtain ⟨d, hd⟩ : ∃ d, cy - y = d + 1 := ⟨cy - y - 1, by omega⟩
      have h2 : cy - (y + 1) = d := by omega
      simp [h, hy, h1, hd, h2]
    · have h1 : ¬ y ≤ cy := by omega
      simp [h, hy, h1]

/-- A sprite flips exactly the pixels its 1 bits land on. -/
theorem drawRows_pixel (x y : Nat) (bs : List Byte) (c : Canvas) {cx cy : Nat} (hx : cx < 64)
    (hy : cy < 32) :
    (drawRows x y bs c).disp[cy][cx] = (c.disp[cy][cx] ^^ rowsBit x y bs cx cy) := by
  induction bs generalizing y c with
  | nil => simp [drawRows, rowsBit_nil]
  | cons b bs ih => rw [drawRows, ih, drawRow_pixel x y b c hx hy, rowsBit_cons, Bool.xor_assoc]

/-- A sprite collides exactly when one of its 1 bits lands on a lit pixel. -/
theorem drawRows_collision (x y : Nat) (bs : List Byte) (c : Canvas) :
    (drawRows x y bs c).collision = true ↔
      c.collision = true ∨
        ∃ cx cy, pixelAt c.disp cx cy = some true ∧ rowsBit x y bs cx cy = true := by
  induction bs generalizing y c with
  | nil => simp [drawRows, rowsBit_nil]
  | cons b bs ih =>
    rw [drawRows, ih, drawRow_collision, or_assoc]
    apply or_congr_right
    have other : ∀ cx cy, cy ≠ y → pixelAt (drawRow x y b c).disp cx cy = pixelAt c.disp cx cy := by
      intro cx cy h
      by_cases hb : cx < 64 ∧ cy < 32
      · rw [pixelAt_eq _ hb.1 hb.2, pixelAt_eq _ hb.1 hb.2, drawRow_pixel x y b c hb.1 hb.2]; simp [h]
      · rw [pixelAt_none _ hb, pixelAt_none _ hb]
    have below : ∀ cx cy, rowsBit x (y + 1) bs cx cy = true → cy ≠ y := by
      intro cx cy h; simp [rowsBit] at h; omega
    constructor
    · rintro (⟨k, hk, hb, hp⟩ | ⟨cx, cy, hp, hr⟩)
      · refine ⟨x + k, y, hp, ?_⟩
        have hn : rowsBit x (y + 1) bs (x + k) y = false := by simp [rowsBit]
        simp [rowsBit_cons, hn, hk, hb]
      · have hy := below cx cy hr
        exact ⟨cx, cy, by rwa [other cx cy hy] at hp, by simp [rowsBit_cons, hr, hy]⟩
    · rintro ⟨cx, cy, hp, hr⟩
      by_cases hy : cy = y
      · subst hy
        have hn : rowsBit x (cy + 1) bs cx cy = false := by simp [rowsBit]
        simp only [rowsBit_cons, hn, Bool.xor_false, Bool.and_eq_true, decide_eq_true_eq] at hr
        exact .inl ⟨cx - x, by omega, hr.2, by rwa [show x + (cx - x) = cx by omega]⟩
      · refine .inr ⟨cx, cy, by rwa [other cx cy hy], ?_⟩
        simpa [rowsBit_cons, hy] using hr

/-! ### The screen in the terms of claims -/

theorem State.pixel_eq (s : State) {cx cy : Nat} (hx : cx < 64) (hy : cy < 32) :
    s.pixel cx cy = s.disp[cy][cx] := by
  simp [State.pixel, pixelAt_eq _ hx hy]

theorem State.pixel_out (s : State) {cx cy : Nat} (h : ¬ (cx < 64 ∧ cy < 32)) : s.pixel cx cy = false := by
  simp [State.pixel, pixelAt_none _ h]

/-- The sprite bit claims speak of is the bit of the rows that draw-sprite draws. -/
theorem State.spriteBit_eq (s : State) (x y : RegIdx) (n : Nibble) (cx cy : Nat) :
    s.spriteBit x y n cx cy =
      rowsBit (s.reg x).toNat (s.reg y).toNat (s.bytesAtIndex n.toNat) cx cy := by
  simp only [State.spriteBit, rowsBit, State.bytesAtIndex_getElem?]
  by_cases h : (s.reg y).toNat ≤ cy
  · by_cases h' : cy < (s.reg y).toNat + n.toNat
    · simp [h, h', show cy - (s.reg y).toNat < n.toNat by omega]
    · simp [h, h', show ¬ cy - (s.reg y).toNat < n.toNat by omega]
  · simp [h]

end Sys2Proof.Machine
end

