-- ==== Sys2Proof/Laws/Encoding.lean ====
section
/-! SUPPORT. The fields of the encoding formats read back, and what the three masks of the opcode map keep of
a word (spec/30_encoding.md R61, R62, R65). -/

namespace Sys2Proof

variable (n1 x y n : Nibble) (nn : Byte) (nnn : Literal12) (w : Word)

/-! ### The formats as numbers -/

theorem toNat_append_eq {a b : Nat} (u : BitVec a) (v : BitVec b) :
    (u ++ v).toNat = u.toNat * 2 ^ b + v.toNat := by
  rw [BitVec.toNat_append, ← Nat.shiftLeft_add_eq_or_of_lt v.isLt, Nat.shiftLeft_eq]

theorem encodeA_toNat : (encodeA n1 nnn).toNat = n1.toNat * 4096 + nnn.toNat :=
  toNat_append_eq n1 nnn

theorem encodeI_toNat : (encodeI n1 x nn).toNat = n1.toNat * 4096 + x.toNat * 256 + nn.toNat := by
  have h : (encodeI n1 x nn).toNat = (n1 ++ x).toNat * 2 ^ 8 + nn.toNat := toNat_append_eq _ _
  rw [h, toNat_append_eq]; omega

theorem encodeR_toNat :
    (encodeR n1 x y n).toNat = n1.toNat * 4096 + x.toNat * 256 + y.toNat * 16 + n.toNat := by
  have h : (encodeR n1 x y n).toNat = (n1 ++ x ++ y).toNat * 2 ^ 4 + n.toNat := toNat_append_eq _ _
  rw [h, toNat_append_eq, toNat_append_eq]; omega

theorem wordOfBytes_toNat (hi lo : Byte) : (wordOfBytes hi lo).toNat = hi.toNat * 256 + lo.toNat :=
  toNat_append_eq hi lo

/-! ### The fields as numbers -/

theorem fieldN1_toNat : (fieldN1 w).toNat = w.toNat / 4096 := by
  simp [fieldN1, Nat.shiftRight_eq_div_pow]; omega

theorem fieldX_toNat : (fieldX w).toNat = w.toNat / 256 % 16 := by
  simp [fieldX, Nat.shiftRight_eq_div_pow]

theorem fieldY_toNat : (fieldY w).toNat = w.toNat / 16 % 16 := by
  simp [fieldY, Nat.shiftRight_eq_div_pow]

theorem fieldN_toNat : (fieldN w).toNat = w.toNat % 16 := by simp [fieldN]

theorem fieldNN_toNat : (fieldNN w).toNat = w.toNat % 256 := by simp [fieldNN]

theorem fieldNNN_toNat : (fieldNNN w).toNat = w.toNat % 4096 := by simp [fieldNNN]

theorem highByte_toNat : (highByte w).toNat = w.toNat / 256 := by
  simp [highByte, Nat.shiftRight_eq_div_pow]; omega

theorem lowByte_toNat : (lowByte w).toNat = w.toNat % 256 := by simp [lowByte]

/-! ### Fields of a format -/

@[simp] theorem fieldN1_encodeA : fieldN1 (encodeA n1 nnn) = n1 := by
  apply BitVec.eq_of_toNat_eq; rw [fieldN1_toNat, encodeA_toNat]; omega

@[simp] theorem fieldNNN_encodeA : fieldNNN (encodeA n1 nnn) = nnn := by
  apply BitVec.eq_of_toNat_eq; rw [fieldNNN_toNat, encodeA_toNat]; omega

@[simp] theorem fieldN1_encodeI : fieldN1 (encodeI n1 x nn) = n1 := by
  apply BitVec.eq_of_toNat_eq; rw [fieldN1_toNat, encodeI_toNat]; omega

@[simp] theorem fieldX_encodeI : fieldX (encodeI n1 x nn) = x := by
  apply BitVec.eq_of_toNat_eq; rw [fieldX_toNat, encodeI_toNat]; omega

@[simp] theorem fieldNN_encodeI : fieldNN (encodeI n1 x nn) = nn := by
  apply BitVec.eq_of_toNat_eq; rw [fieldNN_toNat, encodeI_toNat]; omega

@[simp] theorem fieldN1_encodeR : fieldN1 (encodeR n1 x y n) = n1 := by
  apply BitVec.eq_of_toNat_eq; rw [fieldN1_toNat, encodeR_toNat]; omega

@[simp] theorem fieldX_encodeR : fieldX (encodeR n1 x y n) = x := by
  apply BitVec.eq_of_toNat_eq; rw [fieldX_toNat, encodeR_toNat]; omega

@[simp] theorem fieldY_encodeR : fieldY (encodeR n1 x y n) = y := by
  apply BitVec.eq_of_toNat_eq; rw [fieldY_toNat, encodeR_toNat]; omega

@[simp] theorem fieldN_encodeR : fieldN (encodeR n1 x y n) = n := by
  apply BitVec.eq_of_toNat_eq; rw [fieldN_toNat, encodeR_toNat]; omega

/-! ### A word from its fields -/

theorem encodeA_fields : encodeA (fieldN1 w) (fieldNNN w) = w := by
  apply BitVec.eq_of_toNat_eq; rw [encodeA_toNat, fieldN1_toNat, fieldNNN_toNat]; omega

theorem encodeI_fields : encodeI (fieldN1 w) (fieldX w) (fieldNN w) = w := by
  apply BitVec.eq_of_toNat_eq; rw [encodeI_toNat, fieldN1_toNat, fieldX_toNat, fieldNN_toNat]; omega

theorem encodeR_fields : encodeR (fieldN1 w) (fieldX w) (fieldY w) (fieldN w) = w := by
  apply BitVec.eq_of_toNat_eq
  rw [encodeR_toNat, fieldN1_toNat, fieldX_toNat, fieldY_toNat, fieldN_toNat]; omega

theorem wordOfBytes_bytes : wordOfBytes (highByte w) (lowByte w) = w := by
  apply BitVec.eq_of_toNat_eq; rw [wordOfBytes_toNat, highByte_toNat, lowByte_toNat]; omega

/-! ### What a mask keeps -/

theorem encodeA_getLsbD (i : Nat) :
    (encodeA n1 nnn).getLsbD i = if i < 12 then nnn.getLsbD i else n1.getLsbD (i - 12) := by
  have h := BitVec.getLsbD_append (x := n1) (y := nnn) (i := i)
  exact h.trans (by by_cases hi : i < 12 <;> simp [hi])

theorem encodeI_getLsbD (i : Nat) : (encodeI n1 x nn).getLsbD i =
    if i < 8 then nn.getLsbD i else if i < 12 then x.getLsbD (i - 8) else n1.getLsbD (i - 12) := by
  have h := BitVec.getLsbD_append (x := n1 ++ x) (y := nn) (i := i)
  refine h.trans ?_
  rw [BitVec.getLsbD_append]
  by_cases hi : i < 8
  · simp [hi]
  · by_cases hj : i < 12
    · simp [hi, hj, show i - 8 < 4 by omega]
    · simp [hi, hj, show ¬ i - 8 < 4 by omega, show i - 8 - 4 = i - 12 by omega]

/-- The mask of formats A, I and D keeps the major opcode. -/
theorem and_F000 : w &&& 0xF000#16 = encodeA (fieldN1 w) 0 := by
  apply BitVec.eq_of_getLsbD_eq; intro i hi
  rw [encodeA_getLsbD]
  interval_cases i <;> simp [fieldN1]

/-- The mask of format F keeps the major opcode and NN. -/
theorem and_F0FF : w &&& 0xF0FF#16 = encodeI (fieldN1 w) 0 (fieldNN w) := by
  apply BitVec.eq_of_getLsbD_eq; intro i hi
  rw [encodeI_getLsbD]
  interval_cases i <;> simp [fieldN1, fieldNN]

theorem encodeR_getLsbD (i : Nat) : (encodeR n1 x y n).getLsbD i =
    if i < 4 then n.getLsbD i else if i < 8 then y.getLsbD (i - 4)
    else if i < 12 then x.getLsbD (i - 8) else n1.getLsbD (i - 12) := by
  have h := BitVec.getLsbD_append (x := n1 ++ x ++ y) (y := n) (i := i)
  refine h.trans ?_
  rw [BitVec.getLsbD_append, BitVec.getLsbD_append]
  by_cases hi : i < 4
  · simp [hi]
  · by_cases hj : i < 8
    · simp [hi, hj, show i - 4 < 4 by omega]
    · by_cases hk : i < 12
      · simp [hi, hj, hk, show ¬ i - 4 < 4 by omega, show i - 4 - 4 = i - 8 by omega, show i - 8 < 4 by omega]
      · simp [hi, hj, hk, show ¬ i - 4 < 4 by omega, show ¬ i - 4 - 4 < 4 by omega,
          show i - 4 - 4 - 4 = i - 12 by omega]

/-- The mask of format R keeps the major and the minor opcode. -/
theorem and_F00F : w &&& 0xF00F#16 = encodeR (fieldN1 w) 0 0 (fieldN w) := by
  apply BitVec.eq_of_getLsbD_eq; intro i hi
  rw [encodeR_getLsbD]
  interval_cases i <;> simp [fieldN1, fieldN]

end Sys2Proof
end

