-- ==== Sys2Proof/Laws/PerInstr.lean ====
section
/-! SUPPORT. Statements made per instruction: `MatchesRow`, the row of the opcode map (spec/30_encoding.md R65)
that stands for each instruction. -/

namespace Sys2Proof.Laws.MatchesRow

/-- Some row of the opcode map has the instruction's mnemonic, matches the instruction's word, and builds the
instruction back from it: every operand field is where the row says. -/
def Statement (i : Instr) : Prop :=
  ∃ (k : Nat) (r : OpcodeRow), opcodeRows[k]? = some r ∧ r.mnemonic = i.mnemonic ∧
    r.matches (encode i) = true ∧ r.build (encode i) = i

theorem clearScreen : Statement .clearScreen :=
  ⟨0, _, rfl, rfl, rfl, rfl⟩

theorem returnSub : Statement .returnSub :=
  ⟨1, _, rfl, rfl, rfl, rfl⟩

theorem systemCall (nnn : Literal12) : Statement (.systemCall nnn) := by
  refine ⟨2, _, rfl, rfl, ?_, ?_⟩
  · simp [OpcodeRow.matches, encode, and_F000]; decide
  · simp [encode]

theorem jump (nnn : Literal12) : Statement (.jump nnn) := by
  refine ⟨3, _, rfl, rfl, ?_, ?_⟩
  · simp [OpcodeRow.matches, encode, and_F000]; decide
  · simp [encode]

theorem call (nnn : Literal12) : Statement (.call nnn) := by
  refine ⟨4, _, rfl, rfl, ?_, ?_⟩
  · simp [OpcodeRow.matches, encode, and_F000]; decide
  · simp [encode]

theorem skipEqualImmediate (x : RegIdx) (nn : Byte) : Statement (.skipEqualImmediate x nn) := by
  refine ⟨5, _, rfl, rfl, ?_, ?_⟩
  · simp [OpcodeRow.matches, encode, and_F000]; decide
  · simp [encode]

theorem skipNotEqualImmediate (x : RegIdx) (nn : Byte) : Statement (.skipNotEqualImmediate x nn) := by
  refine ⟨6, _, rfl, rfl, ?_, ?_⟩
  · simp [OpcodeRow.matches, encode, and_F000]; decide
  · simp [encode]

theorem skipEqualRegisters (x : RegIdx) (y : RegIdx) : Statement (.skipEqualRegisters x y) := by
  refine ⟨7, _, rfl, rfl, ?_, ?_⟩
  · simp [OpcodeRow.matches, encode, and_F00F]; decide
  · simp [encode]

theorem loadImmediate (x : RegIdx) (nn : Byte) : Statement (.loadImmediate x nn) := by
  refine ⟨8, _, rfl, rfl, ?_, ?_⟩
  · simp [OpcodeRow.matches, encode, and_F000]; decide
  · simp [encode]

theorem addImmediate (x : RegIdx) (nn : Byte) : Statement (.addImmediate x nn) := by
  refine ⟨9, _, rfl, rfl, ?_, ?_⟩
  · simp [OpcodeRow.matches, encode, and_F000]; decide
  · simp [encode]

theorem registerMove (x : RegIdx) (y : RegIdx) : Statement (.registerMove x y) := by
  refine ⟨10, _, rfl, rfl, ?_, ?_⟩
  · simp [OpcodeRow.matches, encode, and_F00F]; decide
  · simp [encode]

theorem registerOr (x : RegIdx) (y : RegIdx) : Statement (.registerOr x y) := by
  refine ⟨11, _, rfl, rfl, ?_, ?_⟩
  · simp [OpcodeRow.matches, encode, and_F00F]; decide
  · simp [encode]

theorem registerAnd (x : RegIdx) (y : RegIdx) : Statement (.registerAnd x y) := by
  refine ⟨12, _, rfl, rfl, ?_, ?_⟩
  · simp [OpcodeRow.matches, encode, and_F00F]; decide
  · simp [encode]

theorem registerXor (x : RegIdx) (y : RegIdx) : Statement (.registerXor x y) := by
  refine ⟨13, _, rfl, rfl, ?_, ?_⟩
  · simp [OpcodeRow.matches, encode, and_F00F]; decide
  · simp [encode]

theorem addRegisters (x : RegIdx) (y : RegIdx) : Statement (.addRegisters x y) := by
  refine ⟨14, _, rfl, rfl, ?_, ?_⟩
  · simp [OpcodeRow.matches, encode, and_F00F]; decide
  · simp [encode]

theorem subRegisters (x : RegIdx) (y : RegIdx) : Statement (.subRegisters x y) := by
  refine ⟨15, _, rfl, rfl, ?_, ?_⟩
  · simp [OpcodeRow.matches, encode, and_F00F]; decide
  · simp [encode]

theorem shiftRight (x : RegIdx) (y : RegIdx) : Statement (.shiftRight x y) := by
  refine ⟨16, _, rfl, rfl, ?_, ?_⟩
  · simp [OpcodeRow.matches, encode, and_F00F]; decide
  · simp [encode]

theorem subReverse (x : RegIdx) (y : RegIdx) : Statement (.subReverse x y) := by
  refine ⟨17, _, rfl, rfl, ?_, ?_⟩
  · simp [OpcodeRow.matches, encode, and_F00F]; decide
  · simp [encode]

theorem shiftLeft (x : RegIdx) (y : RegIdx) : Statement (.shiftLeft x y) := by
  refine ⟨18, _, rfl, rfl, ?_, ?_⟩
  · simp [OpcodeRow.matches, encode, and_F00F]; decide
  · simp [encode]

theorem skipNotEqualRegisters (x : RegIdx) (y : RegIdx) : Statement (.skipNotEqualRegisters x y) := by
  refine ⟨19, _, rfl, rfl, ?_, ?_⟩
  · simp [OpcodeRow.matches, encode, and_F00F]; decide
  · simp [encode]

theorem setIndex (nnn : Literal12) : Statement (.setIndex nnn) := by
  refine ⟨20, _, rfl, rfl, ?_, ?_⟩
  · simp [OpcodeRow.matches, encode, and_F000]; decide
  · simp [encode]

theorem jumpWithOffset (nnn : Literal12) : Statement (.jumpWithOffset nnn) := by
  refine ⟨21, _, rfl, rfl, ?_, ?_⟩
  · simp [OpcodeRow.matches, encode, and_F000]; decide
  · simp [encode]

theorem randomAnd (x : RegIdx) (nn : Byte) : Statement (.randomAnd x nn) := by
  refine ⟨22, _, rfl, rfl, ?_, ?_⟩
  · simp [OpcodeRow.matches, encode, and_F000]; decide
  · simp [encode]

theorem drawSprite (x : RegIdx) (y : RegIdx) (n : Nibble) : Statement (.drawSprite x y n) := by
  refine ⟨23, _, rfl, rfl, ?_, ?_⟩
  · simp [OpcodeRow.matches, encode, and_F000]; decide
  · simp [encode]

theorem skipIfKeyPressed (x : RegIdx) : Statement (.skipIfKeyPressed x) := by
  refine ⟨24, _, rfl, rfl, ?_, ?_⟩
  · simp [OpcodeRow.matches, encode, and_F0FF]; decide
  · simp [encode]

theorem skipIfKeyNotPressed (x : RegIdx) : Statement (.skipIfKeyNotPressed x) := by
  refine ⟨25, _, rfl, rfl, ?_, ?_⟩
  · simp [OpcodeRow.matches, encode, and_F0FF]; decide
  · simp [encode]

theorem getDelayTimer (x : RegIdx) : Statement (.getDelayTimer x) := by
  refine ⟨26, _, rfl, rfl, ?_, ?_⟩
  · simp [OpcodeRow.matches, encode, and_F0FF]; decide
  · simp [encode]

theorem waitForKey (x : RegIdx) : Statement (.waitForKey x) := by
  refine ⟨27, _, rfl, rfl, ?_, ?_⟩
  · simp [OpcodeRow.matches, encode, and_F0FF]; decide
  · simp [encode]

theorem setDelayTimer (x : RegIdx) : Statement (.setDelayTimer x) := by
  refine ⟨28, _, rfl, rfl, ?_, ?_⟩
  · simp [OpcodeRow.matches, encode, and_F0FF]; decide
  · simp [encode]

theorem setSoundTimer (x : RegIdx) : Statement (.setSoundTimer x) := by
  refine ⟨29, _, rfl, rfl, ?_, ?_⟩
  · simp [OpcodeRow.matches, encode, and_F0FF]; decide
  · simp [encode]

theorem addToIndex (x : RegIdx) : Statement (.addToIndex x) := by
  refine ⟨30, _, rfl, rfl, ?_, ?_⟩
  · simp [OpcodeRow.matches, encode, and_F0FF]; decide
  · simp [encode]

theorem fontAddress (x : RegIdx) : Statement (.fontAddress x) := by
  refine ⟨31, _, rfl, rfl, ?_, ?_⟩
  · simp [OpcodeRow.matches, encode, and_F0FF]; decide
  · simp [encode]

theorem storeBcd (x : RegIdx) : Statement (.storeBcd x) := by
  refine ⟨32, _, rfl, rfl, ?_, ?_⟩
  · simp [OpcodeRow.matches, encode, and_F0FF]; decide
  · simp [encode]

theorem storeRegisters (x : RegIdx) : Statement (.storeRegisters x) := by
  refine ⟨33, _, rfl, rfl, ?_, ?_⟩
  · simp [OpcodeRow.matches, encode, and_F0FF]; decide
  · simp [encode]

theorem loadRegisters (x : RegIdx) : Statement (.loadRegisters x) := by
  refine ⟨34, _, rfl, rfl, ?_, ?_⟩
  · simp [OpcodeRow.matches, encode, and_F0FF]; decide
  · simp [encode]

end Sys2Proof.Laws.MatchesRow
end

