-- ==== Sys2Proof/Laws/Step.lean ====
section
/-! SUPPORT. What an instruction step, an operation and a step can do, said once. -/

namespace Sys2Proof.Machine

/-- The fetch sees what memory holds, not the outputs of the last operation. -/
@[simp] theorem State.fetchWord_clearEvents (s : State) : s.clearEvents.fetchWord = s.fetchWord := rfl

/-- All that an instruction step can do: the fetch fault, the decoded instruction, or the unrecognized word. -/
theorem stepInstruction_cases (s : State) :
    (4094 < s.pc.toNat ∧ stepInstruction s = .fault (.fetchRange s.pc)) ∨
    (s.pc.toNat ≤ 4094 ∧ ∃ i, decode s.fetchWord = .ok i ∧ stepInstruction s = exec i s.clearEvents) ∨
    (s.pc.toNat ≤ 4094 ∧ ∃ r, decode s.fetchWord = .error r ∧
      stepInstruction s = unrecognized s.fetchWord s.clearEvents) := by
  unfold stepInstruction
  by_cases h : 4094 < s.pc.toNat
  · simp [h]
  · cases hd : decode s.fetchWord <;> simp [h, Nat.not_lt.1 h, hd]

theorem perform_instruction (s : State) (h : s.paused = false) :
    perform .instruction s = stepInstruction s := by simp [perform, h]

theorem perform_instruction_paused (s : State) (h : s.paused = true) :
    perform .instruction s = .next s.clearEvents := by simp [perform, h]

/-- With an empty script a step is the instruction trigger. -/
theorem step_of_empty_script (s : State) (h : s.script = []) : step s = perform .instruction s := by
  simp [step, performNext, h]

/-- Some operation is performed by every step, on the state with the script that is left. -/
theorem step_performs (s : State) :
    ∃ op rest, step s = perform op { s with script := rest } := by
  cases h : s.script with
  | nil => exact ⟨.instruction, s.script, by rw [step_of_empty_script s h]⟩
  | cons op rest => exact ⟨op, rest, by simp [step, performNext, h]⟩

/-- A timer step leaves one tone exactly when the sound timer was running. -/
theorem stepTimers_eq (s : State) :
    stepTimers s = { s with dt := countDown s.dt, st := countDown s.st,
                            events := if s.st = 0 then [] else [.tone] } := by
  unfold stepTimers
  split <;> simp [State.emit, State.setSound, State.setDelay, State.clearEvents]

theorem countDown_toNat (b : Byte) : (countDown b).toNat = b.toNat - 1 := by
  unfold countDown
  split
  · subst_vars; rfl
  · rename_i h
    have : b.toNat ≠ 0 := fun e => h (BitVec.eq_of_toNat_eq e)
    rw [BitVec.toNat_sub]
    have := b.isLt
    simp; omega

/-- The memory reset leaves: the font, and zeros. -/
theorem readByte_hostReset (s : State) (a : Nat) :
    (hostReset s).readByte a = Memory.unlisted s.params.font a := rfl

theorem hostReset_inv (s : State) : (hostReset s).Inv := ⟨Nat.zero_le _, rfl⟩

end Sys2Proof.Machine
end

