-- ==== Sys2Proof/Tests/Slice0.lean ====
section
/-! SUPPORT. The model's own tests: expected results are the vectors of spec/95_test_vectors.md (their numbers
stand in the names) or words written out bit by bit from the patterns of spec/30_encoding.md R65. Then one
witness for each statement that has hypotheses: a concrete state and operands that meet them together. -/

open Sys2Proof Sys2Proof.Machine

namespace Sys2Proof.Tests

/-! ### Well-formedness: the two checks, each with a term it refuses -/

theorem test_wellFormed_refuses_systemCall_0E0 : (Instr.systemCall 0x0E0).wellFormed = false := by decide

theorem test_wellFormed_refuses_systemCall_0EE : (Instr.systemCall 0x0EE).wellFormed = false := by decide

theorem test_wellFormed_admits_systemCall_000 : (Instr.systemCall 0x000).wellFormed = true := by decide

/-! ### Decoding: one word per instruction, written out from its pattern -/

theorem test_decode_clearScreen : decode 0b0000_0000_1110_0000 = .ok .clearScreen := by decide

theorem test_decode_returnSub : decode 0b0000_0000_1110_1110 = .ok .returnSub := by decide

theorem test_decode_systemCall : decode 0b0000_0010_1011_0111 = .ok (.systemCall 0x2B7) := by decide

theorem test_decode_jump : decode 0b0001_0010_1011_0111 = .ok (.jump 0x2B7) := by decide

theorem test_decode_call : decode 0b0010_0010_1011_0111 = .ok (.call 0x2B7) := by decide

theorem test_decode_skipEqualImmediate : decode 0b0011_1010_1001_1100 = .ok (.skipEqualImmediate 0xA 0x9C) := by decide

theorem test_decode_skipNotEqualImmediate : decode 0b0100_1010_1001_1100 = .ok (.skipNotEqualImmediate 0xA 0x9C) := by decide

theorem test_decode_skipEqualRegisters : decode 0b0101_1010_0101_0000 = .ok (.skipEqualRegisters 0xA 0x5) := by decide

theorem test_decode_loadImmediate : decode 0b0110_1010_1001_1100 = .ok (.loadImmediate 0xA 0x9C) := by decide

theorem test_decode_addImmediate : decode 0b0111_1010_1001_1100 = .ok (.addImmediate 0xA 0x9C) := by decide

theorem test_decode_registerMove : decode 0b1000_1010_0101_0000 = .ok (.registerMove 0xA 0x5) := by decide

theorem test_decode_registerOr : decode 0b1000_1010_0101_0001 = .ok (.registerOr 0xA 0x5) := by decide

theorem test_decode_registerAnd : decode 0b1000_1010_0101_0010 = .ok (.registerAnd 0xA 0x5) := by decide

theorem test_decode_registerXor : decode 0b1000_1010_0101_0011 = .ok (.registerXor 0xA 0x5) := by decide

theorem test_decode_addRegisters : decode 0b1000_1010_0101_0100 = .ok (.addRegisters 0xA 0x5) := by decide

theorem test_decode_subRegisters : decode 0b1000_1010_0101_0101 = .ok (.subRegisters 0xA 0x5) := by decide

theorem test_decode_shiftRight : decode 0b1000_1010_0101_0110 = .ok (.shiftRight 0xA 0x5) := by decide

theorem test_decode_subReverse : decode 0b1000_1010_0101_0111 = .ok (.subReverse 0xA 0x5) := by decide

theorem test_decode_shiftLeft : decode 0b1000_1010_0101_1110 = .ok (.shiftLeft 0xA 0x5) := by decide

theorem test_decode_skipNotEqualRegisters : decode 0b1001_1010_0101_0000 = .ok (.skipNotEqualRegisters 0xA 0x5) := by decide

theorem test_decode_setIndex : decode 0b1010_0010_1011_0111 = .ok (.setIndex 0x2B7) := by decide

theorem test_decode_jumpWithOffset : decode 0b1011_0010_1011_0111 = .ok (.jumpWithOffset 0x2B7) := by decide

theorem test_decode_randomAnd : decode 0b1100_1010_1001_1100 = .ok (.randomAnd 0xA 0x9C) := by decide

theorem test_decode_drawSprite : decode 0b1101_1010_0101_0110 = .ok (.drawSprite 0xA 0x5 0x6) := by decide

theorem test_decode_skipIfKeyPressed : decode 0b1110_1010_1001_1110 = .ok (.skipIfKeyPressed 0xA) := by decide

theorem test_decode_skipIfKeyNotPressed : decode 0b1110_1010_1010_0001 = .ok (.skipIfKeyNotPressed 0xA) := by decide

theorem test_decode_getDelayTimer : decode 0b1111_1010_0000_0111 = .ok (.getDelayTimer 0xA) := by decide

theorem test_decode_waitForKey : decode 0b1111_1010_0000_1010 = .ok (.waitForKey 0xA) := by decide

theorem test_decode_setDelayTimer : decode 0b1111_1010_0001_0101 = .ok (.setDelayTimer 0xA) := by decide

theorem test_decode_setSoundTimer : decode 0b1111_1010_0001_1000 = .ok (.setSoundTimer 0xA) := by decide

theorem test_decode_addToIndex : decode 0b1111_1010_0001_1110 = .ok (.addToIndex 0xA) := by decide

theorem test_decode_fontAddress : decode 0b1111_1010_0010_1001 = .ok (.fontAddress 0xA) := by decide

theorem test_decode_storeBcd : decode 0b1111_1010_0011_0011 = .ok (.storeBcd 0xA) := by decide

theorem test_decode_storeRegisters : decode 0b1111_1010_0101_0101 = .ok (.storeRegisters 0xA) := by decide

theorem test_decode_loadRegisters : decode 0b1111_1010_0110_0101 = .ok (.loadRegisters 0xA) := by decide

theorem test_decode_unlisted_words_T3 :
    [0x5121, 0x9ABF, 0x8008, 0x812F, 0xE000, 0xE19F, 0xF000, 0xF11F, 0xF175, 0xF085, 0xFFFF].all
      (fun w => decide (decode w = .error (.unrecognizedWord w))) = true := by decide

theorem test_decodeBytes_is_big_endian : decodeBytes [0x6A, 0x55, 0x12] = .ok (.loadImmediate 0xA 0x55, [0x12]) := by
  decide

theorem test_decodeBytes_refuses_one_byte : decodeBytes [0x6A] = .error .truncated := by decide

/-! ### One step each -/

/-- The state after reset with the word `w` at 0x200. -/
def start (w : Nat) : State := State.reset.withFetchWord 16 w

/-- What `f` reads of the next state. -/
def after {α : Type} (s : State) (f : State → α) : Option α :=
  match step s with
  | .next t => some (f t)
  | _ => none

/-- The fault that a step ends in. -/
def stop (s : State) : Option Fault :=
  match step s with
  | .fault f => some f
  | _ => none

theorem test_T1_1_fetch : after (start 0x6A55) (fun t => (t.reg 0xA, t.pc)) = some (0x55, 0x202) := by decide

theorem test_T1_2_odd_pc :
    after ((State.reset.setPc 0x201).withFetchWord 16 0x6A55) (fun t => (t.reg 0xA, t.pc)) = some (0x55, 0x203) := by
  decide

theorem test_T1_3_last_address :
    after ((State.reset.setPc 0xFFE).withFetchWord 16 0x6101) (fun t => (t.reg 1, t.pc)) = some (0x01, 0x1000) := by
  decide

theorem test_T1_4_fetch_range : stop (State.reset.setPc 0xFFF) = some (.fetchRange 0xFFF) := by decide

theorem test_T2_2_jump_to_self : after (start 0x1200) (fun t => (t.pc, t.events)) = some (0x200, []) := by decide

theorem test_T2_5_jump_with_offset :
    after ((start 0xBFFF).setReg 0 0xFF) (fun t => t.pc) = some 0x10FE := by decide

theorem test_T2_6_jump_with_offset_uses_V0 :
    after (((start 0xB2FF).setReg 0 1).setReg 2 0x50) (fun t => t.pc) = some 0x300 := by decide

theorem test_T2_7_zeroed_memory_warns :
    after State.reset (fun t => (t.pc, t.events)) = some (0x200, [.log .syscallWarn 0x0000]) := by decide

theorem test_T2_10_last_call :
    after { start 0x2300 with sp := 15 } (fun t => (t.stack[15], t.sp, t.pc)) = some (0x202, 16, 0x300) := by decide

theorem test_T2_11_seventeenth_call :
    after { start 0x2300 with sp := 16 } (fun t => (t.stack, t.sp, t.pc, t.events)) =
      some (Vector.replicate 16 0, 16, 0x200, [.log .stackOverflow 0x2300]) := by decide

theorem test_T2_13_return_from_full :
    after { start 0x00EE with sp := 16, stack := (Vector.replicate 16 0).set 15 0xABC } (fun t => (t.sp, t.pc)) =
      some (15, 0xABC) := by decide

theorem test_T2_14_return_on_empty :
    after (start 0x00EE) (fun t => (t.sp, t.pc, t.events)) = some (0, 0x200, [.log .stackUnderflow 0x00EE]) := by
  decide

theorem test_T3_1_unrecognized :
    after (start 0x5121) (fun t => (t.pc, t.events)) = some (0x200, [.log .unrecognized 0x5121]) := by decide

theorem test_T3_1_unrecognized_strict :
    stop { start 0x5121 with params := { font := conventionalFont, strict := true } } =
      some (.unrecognizedStrict 0x5121) := by decide

theorem test_T4_1_skip_taken : after ((start 0x3A42).setReg 0xA 0x42) (fun t => t.pc) = some 0x204 := by decide

theorem test_T4_4_skip_not_equal : after ((start 0x4A42).setReg 0xA 0x41) (fun t => t.pc) = some 0x204 := by decide

theorem test_T4_7_skip_registers :
    after (((start 0x5120).setReg 1 7).setReg 2 8) (fun t => t.pc) = some 0x202 := by decide

theorem test_T4_9_skip_not_registers :
    after (((start 0x9120).setReg 1 7).setReg 2 8) (fun t => t.pc) = some 0x204 := by decide

theorem test_T5_4_add_immediate_no_carry :
    after (((start 0x7001).setReg 0 0xFF).setReg 15 0x33) (fun t => (t.reg 0, t.reg 15)) = some (0, 0x33) := by
  decide

theorem test_T5_6_move : after ((start 0x8010).setReg 1 0x33) (fun t => t.reg 0) = some 0x33 := by decide

theorem test_T5_7_or :
    after ((((start 0x8011).setReg 0 0x0F).setReg 1 0xF0).setReg 15 0x55) (fun t => (t.reg 0, t.reg 15)) =
      some (0xFF, 0x55) := by decide

theorem test_T5_8_and :
    after (((start 0x8012).setReg 0 0x3C).setReg 1 0x0F) (fun t => t.reg 0) = some 0x0C := by decide

theorem test_T5_9_xor :
    after (((start 0x8013).setReg 0 0xFF).setReg 1 0x0F) (fun t => t.reg 0) = some 0xF0 := by decide

theorem test_T5_12_add_256 :
    after (((start 0x8014).setReg 0 0x80).setReg 1 0x80) (fun t => (t.reg 0, t.reg 15)) = some (0, 1) := by decide

theorem test_T5_16_add_reads_old_VF :
    after (((start 0x81F4).setReg 1 0x10).setReg 15 0x20) (fun t => (t.reg 1, t.reg 15)) = some (0x30, 0) := by
  decide

theorem test_T5_18_sub_equal :
    after (((start 0x8015).setReg 0 7).setReg 1 7) (fun t => (t.reg 0, t.reg 15)) = some (0, 0) := by decide

theorem test_T5_20_sub_into_VF :
    after (((start 0x8F15).setReg 15 5).setReg 1 2) (fun t => t.reg 15) = some 3 := by decide

theorem test_T5_23_sub_reverse_borrow :
    after (((start 0x8017).setReg 0 5).setReg 1 2) (fun t => (t.reg 0, t.reg 15)) = some (0xFD, 0) := by decide

theorem test_T5_28_shift_right :
    after (((start 0x8016).setReg 0 0xFE).setReg 1 0x55) (fun t => (t.reg 0, t.reg 15, t.reg 1)) =
      some (0x7F, 0, 0x55) := by decide

theorem test_T5_29_shift_right_VF : after ((start 0x8F06).setReg 15 6) (fun t => t.reg 15) = some 3 := by decide

theorem test_T5_31_shift_left :
    after ((start 0x801E).setReg 0 0x80) (fun t => (t.reg 0, t.reg 15)) = some (0, 1) := by decide

theorem test_T5_36_random_and_zero : after ((start 0xC300).setReg 3 0x77) (fun t => t.reg 3) = some 0 :=
  (rfl : _ = some (Config.randomByte 0 &&& 0)).trans (congrArg some BitVec.and_zero)

theorem test_T6_1_set_index : after (start 0xA300) (fun t => (t.i, t.pc)) = some (0x300, 0x202) := by decide

theorem test_T6_4_add_to_index_wraps :
    after (((start 0xF01E).setIndex 0xFFFF).setReg 0 1) (fun t => t.i) = some 0 := by decide

theorem test_T6_7_font_address : after ((start 0xF029).setReg 0 0xFF) (fun t => t.i) = some 0x4FB := by decide

theorem test_T6_9_store_bcd_last :
    after (((start 0xF033).setReg 0 0x64).setIndex 0xFFD)
      (fun t => (t.readByte 0xFFD, t.readByte 0xFFE, t.readByte 0xFFF)) = some (1, 0, 0) := by decide

theorem test_T6_10_store_bcd_range :
    stop (((start 0xF033).setReg 0 0x64).setIndex 0xFFE) = some (.memRange 0xF033 0xFFE) := by decide

theorem test_T6_13_store_registers :
    after (((start 0xF055).setReg 0 0x5A).setIndex 0xFFF) (fun t => (t.readByte 0xFFF, t.i)) =
      some (0x5A, 0xFFF) := by decide

theorem test_T6_15_load_registers_reads_the_font :
    after ((start 0xF265).setReg 3 9) (fun t => (t.reg 0, t.reg 1, t.reg 2, t.reg 3)) =
      some (0xF0, 0x90, 0x90, 0x09) := by decide

theorem test_T6_14_load_registers_range : stop ((start 0xF065).setIndex 0x1000) = some (.memRange 0xF065 0x1000) := by
  decide

theorem test_T7_1_clear_screen :
    after { start 0x00E0 with disp := setPixel State.reset.disp 3 3 true } (fun t => (t.pixel 3 3, t.dirty)) =
      some (false, false) := by decide

theorem test_T7_2_draw_clips :
    after ((((start 0xD011).setReg 0 0x3C).setIndex 0x300).writeByte 0x300 0xFF)
      (fun t => (t.pixel 59 0, t.pixel 60 0, t.pixel 63 0, t.pixel 0 0)) = some (false, true, true, false) := by decide

theorem test_T7_9_draw_collides :
    after { ((start 0xD011).setIndex 0x300).writeByte 0x300 0xF0 with
        disp := setPixel (setPixel State.reset.disp 3 0 true) 5 0 true }
      (fun t => (t.pixel 2 0, t.pixel 3 0, t.pixel 5 0, t.reg 15, t.dirty)) =
      some (true, false, true, 1, true) := by decide

theorem test_T8_1_skip_if_key :
    after (((start 0xE39E).setReg 3 7).setKey 7 true) (fun t => t.pc) = some 0x204 := by decide

theorem test_T8_4_skip_if_key_above_15 :
    after { (start 0xE09E).setReg 0 0x10 with keys := Vector.replicate 16 true } (fun t => t.pc) = some 0x202 := by
  decide

theorem test_T8_6_skip_if_key_not :
    after (((start 0xE3A1).setReg 3 7).setKey 7 true) (fun t => t.pc) = some 0x202 := by decide

theorem test_T8_8_wait_for_key_spins : after (start 0xF00A) (fun t => (t.pc, t.events)) = some (0x200, []) := by
  decide

theorem test_T8_10_wait_for_key_zero :
    after (((start 0xFF0A).setReg 15 9).setKey 0 true) (fun t => (t.reg 15, t.pc)) = some (0, 0x202) := by decide

theorem test_T8_12_get_delay : after ((start 0xF107).setDelay 3) (fun t => t.reg 1) = some 3 := by decide

theorem test_T8_13_set_delay : after ((start 0xF015).setReg 0 3) (fun t => t.dt) = some 3 := by decide

theorem test_T8_14_set_sound :
    after ((start 0xF518).setReg 5 2) (fun t => (t.st, t.events)) = some (2, []) := by decide

theorem test_T9_3_timer_tone :
    (stepTimers { State.reset with dt := 5, st := 1 }).events = [.tone] ∧
      (stepTimers { State.reset with dt := 5, st := 1 }).st = 0 := by decide

theorem test_T9_9_load :
    ((hostLoad [0x12, 0x00] { State.reset with sp := 7, paused := true }).readByte 0x200,
      (hostLoad [0x12, 0x00] { State.reset with sp := 7, paused := true }).sp,
      (hostLoad [0x12, 0x00] { State.reset with sp := 7, paused := true }).paused) = (0x12, 0, false) := by decide

theorem test_script_operation_comes_first :
    after { start 0x1200 with script := [.timer, .instruction], dt := 9 } (fun t => (t.dt, t.script)) =
      some (8, [.instruction]) := by decide

theorem test_cause_codes :
    [Cause.none, .syscallWarn, .stackOverflow, .stackUnderflow, .unrecognized, .fetchRange, .memRange,
      .unrecognizedStrict].map Cause.code = [0, 1, 2, 3, 4, 5, 6, 7] := by decide

/-! ### Witnesses: the hypotheses of each statement can be met together -/

theorem witness_DecodeOfEncodeIsTheInstruction : (Instr.systemCall 0x0E1).wellFormed = true := by decide

theorem witness_EncodeOfDecodeIsTheWord : decode 0xD12F = .ok (.drawSprite 1 2 15) := by decide

theorem witness_StepRunsTheDecodedInstruction :
    let s := (State.reset.setPc 0xFFE).withFetchWord 16 0x6101
    s.script = [] ∧ s.paused = false ∧ s.pc.toNat ≤ 4094 ∧
      decodeBytes [s.readByte s.pc.toNat, s.readByte (s.pc.toNat + 1)] = .ok (.loadImmediate 1 1, []) := by decide

theorem witness_StepTakesTheScriptedOperation :
    { State.reset with script := [.keydown 15, .timer] }.script = .keydown 15 :: [.timer] := by decide

theorem witness_FetchAboveMemoryFaults :
    let s := State.reset.setPc 0xFFF
    s.script = [] ∧ s.paused = false ∧ 4094 < s.pc.toNat := by decide

/-- Both clauses: not strict, and strict. -/
theorem witness_UnrecognizedWordIsLoggedAndSpins :
    [false, true].all (fun b =>
      let s := { start 0xFFFF with params := { font := conventionalFont, strict := b } }
      decide (s.script = [] ∧ s.paused = false ∧ s.pc.toNat ≤ 4094 ∧
        0xFFFF = wordOfBytes (s.readByte s.pc.toNat) (s.readByte (s.pc.toNat + 1)) ∧
        decode 0xFFFF = .error (.unrecognizedWord 0xFFFF) ∧ s.params.strict = b)) = true := by decide

theorem witness_StoreIsSeenByTheNextFetch :
    let s := (start 0xF155).setIndex 0x202
    s.script = [] ∧ s.paused = false ∧ s.pc.toNat ≤ 4094 ∧
      decodeBytes [s.readByte s.pc.toNat, s.readByte (s.pc.toNat + 1)] = .ok (.storeRegisters 1, []) ∧
      1 ≤ (1 : RegIdx).toNat ∧ s.i.toNat = s.pc.toNat + 2 ∧ s.i.toNat + (1 : RegIdx).toNat ≤ 4095 := by decide

/-- Each clause at its boundaries: SP = 1, SP = 16, and SP = 0. -/
theorem witness_ReturnPopsThePc :
    let s := { State.reset with sp := 1 }
    let t := { State.reset with sp := 16 }
    (0 < s.sp ∧ s.sp ≤ 16) ∧ (0 < t.sp ∧ t.sp ≤ 16) ∧ State.reset.sp = 0 := by decide

theorem witness_CallPushesTheReturnAddress : { State.reset with sp := 15 }.sp < 16 := by decide

/-- The first clause, and the second on a call that overflows. -/
theorem witness_CallOnFullStackChangesNothing :
    let s := { State.reset with sp := 16 }
    s.sp = 16 ∧ s.events = [] ∧ exec (.call 0x300) s = .next (s.emit (.log .stackOverflow 0x2300)) ∧
      .log .stackOverflow 0x2300 ∈ (s.emit (.log .stackOverflow 0x2300)).events :=
  ⟨rfl, rfl, rfl, by decide⟩

theorem witness_ReturnOnEmptyStackChangesNothing :
    let s := State.reset
    s.sp = 0 ∧ s.events = [] ∧ exec .returnSub s = .next (s.emit (.log .stackUnderflow 0x00EE)) ∧
      .log .stackUnderflow 0x00EE ∈ (s.emit (.log .stackUnderflow 0x00EE)).events :=
  ⟨rfl, rfl, rfl, by decide⟩

theorem witness_ReturnUndoesCall :
    State.reset.sp < 16 ∧
      exec (.call 0x300) State.reset = .next ((State.reset.push 0x202).setPc 0x300) := ⟨by decide, rfl⟩

theorem witness_NestedCallsSucceedUpToSixteen :
    State.reset.sp + (List.replicate 16 (0x200 : Literal12)).length ≤ 16 := by decide

theorem witness_SystemCallOnlyWarns : (0x0E1 : Literal12) ≠ 0x0E0 ∧ (0x0E1 : Literal12) ≠ 0x0EE := by decide

theorem witness_SkipsOnRegisters : (15 : Nibble) ≠ 0 := by decide

theorem witness_AddRegistersSetsTheCarry : (0 : RegIdx) ≠ 15 ∧ (14 : RegIdx) ≠ 15 := by decide

theorem witness_SubtractionsSetTheStrictComparison : (14 : RegIdx) ≠ 15 ∧ (0 : RegIdx) ≠ 15 := by decide

theorem witness_ShiftsMoveTheLostBitToTheFlag : (14 : RegIdx) ≠ 15 := by decide

/-- Each side of the alternative, and both. -/
theorem witness_FlagRegisterAsOperand :
    ((15 : RegIdx) = 15 ∨ (0 : RegIdx) = 15) ∧ ((0 : RegIdx) = 15 ∨ (15 : RegIdx) = 15) ∧
      ((15 : RegIdx) = 15 ∨ (15 : RegIdx) = 15) := by decide

/-- Both clauses at the boundary: I = 0xFFD and I = 0xFFE. -/
theorem witness_StoreBcdWritesThreeDigits :
    (State.reset.setIndex 0xFFD).i.toNat + 2 ≤ 4095 ∧ 4095 < (State.reset.setIndex 0xFFE).i.toNat + 2 := by decide

/-- Both clauses at the boundary, X = 15: I = 0xFF0 and I = 0xFF1. -/
theorem witness_StoreRegistersWritesTheBlock :
    (State.reset.setIndex 0xFF0).i.toNat + (15 : RegIdx).toNat ≤ 4095 ∧
      4095 < (State.reset.setIndex 0xFF1).i.toNat + (15 : RegIdx).toNat := by decide

/-- Both clauses at the boundary, X = 0: I = 0xFFF and I = 0x1000. -/
theorem witness_LoadRegistersReadsTheBlock :
    (State.reset.setIndex 0xFFF).i.toNat + (0 : RegIdx).toNat ≤ 4095 ∧
      4095 < (State.reset.setIndex 0x1000).i.toNat + (0 : RegIdx).toNat := by decide

theorem witness_LoadAfterStoreRestoresTheBlock :
    ∃ t, exec (.storeRegisters 15) (State.reset.setIndex 0xFF0) = .next t := ⟨_, rfl⟩

/-- In range at the last address, and N = 0 with I far out. -/
theorem witness_DrawSpriteXorsThePixels :
    (0 < (15 : Nibble).toNat → (State.reset.setIndex 0xFF1).i.toNat + (15 : Nibble).toNat ≤ 4096) ∧
      (0 < (0 : Nibble).toNat → (State.reset.setIndex 0xFFFF).i.toNat + (0 : Nibble).toNat ≤ 4096) := by decide

/-- The first draw of a one-row sprite at (0, 0): coordinates kept, and the second clause's premises hold. -/
theorem witness_DrawingTwiceRestoresTheScreen :
    let s := (State.reset.setIndex 0x300).writeByte 0x300 0x80
    ∃ t, exec (.drawSprite 0 0 1) s = .next t ∧ t.reg 0 = s.reg 0 ∧ s.pixel 0 0 = false ∧
      s.spriteBit 0 0 1 0 0 = true :=
  ⟨_, rfl, by decide, by decide, by decide⟩

/-- No pixel of the reset screen is lit, so the premise of the second draw's collision holds everywhere. -/
theorem witness_DrawingTwice_screen_is_clear :
    (List.range 64).all (fun cx => (List.range 32).all fun cy => !State.reset.pixel cx cy) = true := by
  decide +kernel

/-- No key, one key, and all keys. -/
theorem witness_WaitForKeyTakesAPressedKey :
    (∀ k : Fin 16, State.reset.keys[k] = false) ∧ (∃ k : Fin 16, (State.reset.setKey 15 true).keys[k] = true) ∧
      ∃ k : Fin 16, (Vector.replicate 16 true)[k] = true := by decide

theorem witness_TimerStepCountsDown : { State.reset with st := 1 }.paused = false := by decide

/-- The last byte of a two-byte image, and the addresses on either side of it. -/
theorem witness_LoadPlacesTheImage :
    (1 < 3584 ∧ 1 < [(0x12 : Byte), 0x00].length) ∧ 511 < 512 ∧
      512 + min [(0x12 : Byte), 0x00].length 3584 ≤ 514 := by decide

theorem witness_PausedMachineRetainsItsState : { State.reset with paused := true }.paused = true := by decide

/-- An instruction that changes an item, for the first clause. -/
theorem witness_OnlyNamedInstructionsWriteAnItem :
    ∃ t, exec (.setIndex 0x300) State.reset = .next t ∧ t.i ≠ State.reset.i := ⟨_, rfl, by decide⟩

theorem witness_RegistersChangeOnlyAsNamed :
    ∃ t, exec (.shiftRight 0 0) (State.reset.setReg 0 1) = .next t ∧
      t.reg 15 ≠ (State.reset.setReg 0 1).reg 15 := ⟨_, rfl, by decide⟩

theorem witness_OtherInstructionsAdvanceByTwo :
    (Instr.loadRegisters 15).steersPc = false ∧ ∃ t, exec (.loadRegisters 15) State.reset = .next t :=
  ⟨rfl, _, rfl⟩

theorem witness_OperationsEmitAtMostOneEvent :
    ∃ t, perform .timer { State.reset with st := 1 } = .next t ∧ t.events = [.tone] := ⟨_, rfl, by decide⟩

/-- The three kinds of quiescent state. -/
theorem witness_QuiescentStatesAreTheSelfJumps :
    (start 0x1200).pc.toNat ≤ 4094 ∧ decode (start 0x1200).fetchWord = .ok (.jump 0x200) ∧
      decode (start 0xB200).fetchWord = .ok (.jumpWithOffset 0x200) ∧
      decode (start 0xF00A).fetchWord = .ok (.waitForKey 0) := by decide

theorem witness_StepKeepsInv : State.reset.Inv ∧ ∃ t, step State.reset = .next t := ⟨by decide, _, rfl⟩

theorem witness_ReachableStatesMeetInv :
    Reachable State.reset.params (stepTimers { State.reset with params := State.reset.params }) :=
  .operation .timer .reset rfl

theorem witness_CanonicalMemoriesAreEqualWhenTheyReadEqual :
    Memory.wf conventionalFont [(0x300, 1), (0xFFF, 2)] = true ∧ Memory.wf conventionalFont [(80, 0)] = false ∧
      Memory.wf conventionalFont [(0x300, 1), (0x300, 2)] = false ∧ Memory.wf conventionalFont [(4096, 1)] = false := by
  decide

end Sys2Proof.Tests
end

section
/-! SUPPORT. The step cycle (spec/40_step_cycle.md): what a step is when nothing comes before the instruction,
and its outcome on a word that no row matches. -/

namespace Sys2Proof.Machine

/-- With no scripted operation first and not paused, a step is an instruction step (R80). -/
theorem step_eq_stepInstruction {s : State} (hscript : s.script = []) (hpaused : s.paused = false) :
    step s = stepInstruction s :=
  (step_of_empty_script s hscript).trans (perform_instruction s hpaused)

/-- An instruction step whose fetched word does not decode is the step of the unrecognized word (R84). -/
theorem stepInstruction_of_decode_error {s : State} {r : Rejection} (hpc : s.pc.toNat ≤ 4094)
    (hdecode : decode s.fetchWord = .error r) :
    stepInstruction s = unrecognized s.fetchWord s.clearEvents := by
  obtain ⟨hrange, -⟩ | ⟨-, i, hok, -⟩ | ⟨-, -, -, hstep⟩ := stepInstruction_cases s
  · exact absurd hpc (Nat.not_le.2 hrange)
  · rw [hdecode] at hok
    cases hok
  · exact hstep

/-- Settles O9: the fetch succeeds and the decode does not, so the step is that of the unrecognized word, which
STRICT_MODE alone decides. -/
theorem unrecognizedWordIsLoggedAndSpins : Obligations.UnrecognizedWordIsLoggedAndSpins := by
  intro s w hscript hpaused hpc hw hdecode
  have hfetch : s.fetchWord = w := hw.symm
  have hstep : step s = unrecognized w s.clearEvents := by
    rw [step_eq_stepInstruction hscript hpaused,
      stepInstruction_of_decode_error hpc (hfetch ▸ hdecode), hfetch]
  rw [hstep]
  obtain ⟨hstrict, hfault⟩ | ⟨hlenient, hlog⟩ := unrecognized_cases w s.clearEvents
  · have hstrict : s.params.strict = true := hstrict
    exact ⟨by simp [hstrict], fun _ => hfault⟩
  · have hlenient : s.params.strict = false := hlenient
    exact ⟨fun _ => hlog, by simp [hlenient]⟩

end Sys2Proof.Machine
end

section
/-! SUPPORT. The jumps (spec/41_control_flow.md): their words, their targets as numbers, and that a write of PC
alone leaves every other item as it was. -/

namespace Sys2Proof

/-- Every word of format A with the major opcode 1 is a jump (R65). -/
theorem decode_encodeA_jump (nnn : Literal12) : decode (encodeA 0x1 nnn) = .ok (.jump nnn) := by
  simp [decode]

/-- Every word of format A with the major opcode B is a jump-with-offset (R65). -/
theorem decode_encodeA_jumpWithOffset (nnn : Literal12) :
    decode (encodeA 0xB nnn) = .ok (.jumpWithOffset nnn) := by
  simp [decode]

end Sys2Proof

namespace Sys2Proof.Machine

@[simp] theorem exec_jump (nnn : Literal12) (s : State) :
    exec (.jump nnn) s = .next (s.setPc (literalAddress nnn)) := rfl

@[simp] theorem exec_jumpWithOffset (nnn : Literal12) (s : State) :
    exec (.jumpWithOffset nnn) s = .next (s.setPc (literalAddress nnn + wideByte (s.reg 0))) := rfl

@[simp] theorem literalAddress_toNat (nnn : Literal12) : (literalAddress nnn).toNat = nnn.toNat :=
  BitVec.toNat_setWidth_of_le (by decide)

@[simp] theorem wideByte_toNat (b : Byte) : (wideByte b).toNat = b.toNat :=
  BitVec.toNat_setWidth_of_le (by decide)

/-- The greatest sum of a literal and a byte is 0xFFF + 0xFF = 0x10FE (R94). -/
theorem literal_add_byte_le (nnn : Literal12) (b : Byte) : nnn.toNat + b.toNat ≤ 0x10FE := by
  have hnnn : nnn.toNat < 4096 := nnn.isLt
  have hb : b.toNat < 256 := b.isLt
  omega

/-- A literal address and a byte have no carry out of 16 bits: the `mod 65536` never takes effect (R94). -/
theorem literalAddress_add_wideByte_toNat (nnn : Literal12) (b : Byte) :
    (literalAddress nnn + wideByte b).toNat = nnn.toNat + b.toNat := by
  have hle := literal_add_byte_le nnn b
  rw [BitVec.toNat_add, literalAddress_toNat, wideByte_toNat, Nat.mod_eq_of_lt (by omega)]

/-- A state meets every frame from itself. -/
theorem Frame.refl (T : Touch) (s : State) : Frame T s s := by
  constructor <;> simp

/-- No frame holds PC: a write of it keeps the frame. -/
theorem Frame.setPc {T : Touch} {s t : State} (h : Frame T s t) (w : Word) : Frame T s (t.setPc w) :=
  { h with }

/-- Settles O18: the next state is `s` with PC at the literal address. -/
theorem jumpGoesToTheLiteral : Obligations.JumpGoesToTheLiteral := by
  intro nnn s
  exact ⟨decode_encodeA_jump nnn, _, exec_jump nnn s, literalAddress_toNat nnn, (Frame.refl {} s).setPc _⟩

/-- Settles O19: the next state is `s` with PC at the sum, which has no carry and so is the sum of the numbers. -/
theorem jumpWithOffsetAddsRegisterZero : Obligations.JumpWithOffsetAddsRegisterZero := by
  intro nnn s
  have hsum := literalAddress_add_wideByte_toNat nnn (s.reg 0)
  have hbound := hsum.trans_le (literal_add_byte_le nnn (s.reg 0))
  exact ⟨decode_encodeA_jumpWithOffset nnn, _, exec_jumpWithOffset nnn s, hsum, hbound,
    (Frame.refl {} s).setPc _⟩

end Sys2Proof.Machine
end

section
/-! SUPPORT. The skips (spec/42_skip.md): what the skip law leaves to be shown of an instruction, and the skips
on a literal. -/

namespace Sys2Proof

/-- Every word of format I with the major opcode 3 is a skip-equal-immediate (R65). -/
theorem decode_encodeI_skipEqualImmediate (x : RegIdx) (nn : Byte) :
    decode (encodeI 0x3 x nn) = .ok (.skipEqualImmediate x nn) := by
  simp [decode]

/-- Every word of format I with the major opcode 4 is a skip-not-equal-immediate (R65). -/
theorem decode_encodeI_skipNotEqualImmediate (x : RegIdx) (nn : Byte) :
    decode (encodeI 0x4 x nn) = .ok (.skipNotEqualImmediate x nn) := by
  simp [decode]

end Sys2Proof

namespace Sys2Proof.Machine

@[simp] theorem exec_skipEqualImmediate (x : RegIdx) (nn : Byte) (s : State) :
    exec (.skipEqualImmediate x nn) s = .next (s.skipIf (s.reg x == nn)) := rfl

@[simp] theorem exec_skipNotEqualImmediate (x : RegIdx) (nn : Byte) (s : State) :
    exec (.skipNotEqualImmediate x nn) s = .next (s.skipIf (s.reg x != nn)) := rfl

/-- The skip law writes PC alone, so it keeps every frame. -/
theorem Frame.skipIf {T : Touch} {s t : State} (h : Frame T s t) (c : Bool) : Frame T s (t.skipIf c) :=
  h.setPc _

/-- An instruction that applies the skip law completes as a skip on whatever its Boolean test decides (R104). -/
theorem completesSkip_of_exec_eq_skipIf {i : Instr} {s : State} {c : Bool} {cond : Prop}
    (hexec : exec i s = .next (s.skipIf c)) (htest : c = true ↔ cond) : CompletesSkip i s cond := by
  refine ⟨_, hexec, fun hcond => ?_, fun hcond => ?_, (Frame.refl {} s).skipIf c⟩
  · have hc : c = true := htest.2 hcond
    simp [hc]
  · have hc : c = false := Bool.eq_false_iff.2 (mt htest.1 hcond)
    simp [hc]

/-- Settles O20: both instructions apply the skip law, with the tests `==` and `!=` that decide the two
conditions. -/
theorem skipsOnALiteral : Obligations.SkipsOnALiteral := by
  intro x nn s
  exact ⟨decode_encodeI_skipEqualImmediate x nn, decode_encodeI_skipNotEqualImmediate x nn,
    completesSkip_of_exec_eq_skipIf (exec_skipEqualImmediate x nn s) beq_iff_eq,
    completesSkip_of_exec_eq_skipIf (exec_skipNotEqualImmediate x nn s) bne_iff_ne⟩

end Sys2Proof.Machine
end

section
/-! SUPPORT. Loads, arithmetic and logic (spec/43_alu.md): what is left to be shown of an instruction that writes
one register and advances, and those of them that write no flag. -/

namespace Sys2Proof

/-- Every word of format I with the major opcode 6 is a load-immediate (R65). -/
theorem decode_encodeI_loadImmediate (x : RegIdx) (nn : Byte) :
    decode (encodeI 0x6 x nn) = .ok (.loadImmediate x nn) := by
  simp [decode]

/-- Every word of format I with the major opcode 7 is an add-immediate (R65). -/
theorem decode_encodeI_addImmediate (x : RegIdx) (nn : Byte) :
    decode (encodeI 0x7 x nn) = .ok (.addImmediate x nn) := by
  simp [decode]

/-- The words of format R with the major opcode 8 are decoded by the minor opcode (R64). -/
theorem decode_encodeR_alu (x y : RegIdx) (n : Nibble) :
    decode (encodeR 0x8 x y n) = decodeAlu (encodeR 0x8 x y n) := by
  simp [decode]

/-- A word of format R with the major opcode 8 and the minor opcode 0 is a register-move (R65). -/
theorem decode_encodeR_registerMove (x y : RegIdx) :
    decode (encodeR 0x8 x y 0x0) = .ok (.registerMove x y) := by
  rw [decode_encodeR_alu]; simp [decodeAlu]

/-- A word of format R with the major opcode 8 and the minor opcode 1 is a register-or (R65). -/
theorem decode_encodeR_registerOr (x y : RegIdx) :
    decode (encodeR 0x8 x y 0x1) = .ok (.registerOr x y) := by
  rw [decode_encodeR_alu]; simp [decodeAlu]

/-- A word of format R with the major opcode 8 and the minor opcode 2 is a register-and (R65). -/
theorem decode_encodeR_registerAnd (x y : RegIdx) :
    decode (encodeR 0x8 x y 0x2) = .ok (.registerAnd x y) := by
  rw [decode_encodeR_alu]; simp [decodeAlu]

/-- A word of format R with the major opcode 8 and the minor opcode 3 is a register-xor (R65). -/
theorem decode_encodeR_registerXor (x y : RegIdx) :
    decode (encodeR 0x8 x y 0x3) = .ok (.registerXor x y) := by
  rw [decode_encodeR_alu]; simp [decodeAlu]

end Sys2Proof

namespace Sys2Proof.Machine

@[simp] theorem exec_loadImmediate (x : RegIdx) (nn : Byte) (s : State) :
    exec (.loadImmediate x nn) s = .next (s.setReg x nn).advance := rfl

@[simp] theorem exec_addImmediate (x : RegIdx) (nn : Byte) (s : State) :
    exec (.addImmediate x nn) s = .next (s.setReg x (s.reg x + nn)).advance := rfl

@[simp] theorem exec_registerMove (x y : RegIdx) (s : State) :
    exec (.registerMove x y) s = .next (s.setReg x (s.reg y)).advance := rfl

@[simp] theorem exec_registerOr (x y : RegIdx) (s : State) :
    exec (.registerOr x y) s = .next (s.setReg x (s.reg x ||| s.reg y)).advance := rfl

@[simp] theorem exec_registerAnd (x y : RegIdx) (s : State) :
    exec (.registerAnd x y) s = .next (s.setReg x (s.reg x &&& s.reg y)).advance := rfl

@[simp] theorem exec_registerXor (x y : RegIdx) (s : State) :
    exec (.registerXor x y) s = .next (s.setReg x (s.reg x ^^^ s.reg y)).advance := rfl

/-- A write of a register that the frame names keeps the frame. -/
theorem Frame.setReg {T : Touch} {s t : State} (h : Frame T s t) {x : RegIdx} (hx : x ∈ T.regs) (b : Byte) :
    Frame T s (t.setReg x b) :=
  { h with
    regs := fun r hr => by
      have hne : r ≠ x := fun e => hr (e ▸ hx)
      rw [State.reg_setReg_of_ne t b hne, h.regs r hr] }

/-- The default PC law writes PC alone, so it keeps every frame. -/
theorem Frame.advance {T : Touch} {s t : State} (h : Frame T s t) : Frame T s t.advance :=
  h.setPc _

/-- An instruction that writes `b` to V[x] and advances completes with `b` in V[x] (R83). -/
theorem completesRegister_of_exec_eq_setReg_advance {i : Instr} {x : RegIdx} {s : State} {b : Byte}
    (hexec : exec i s = .next (s.setReg x b).advance) : CompletesRegister i x s b :=
  ⟨_, hexec, State.reg_setReg_self s x b, rfl, ((Frame.refl _ s).setReg (List.mem_singleton_self x) b).advance⟩

/-- The sum of two bytes is their sum as numbers, modulo 256 (R112). -/
theorem byte_add_eq_ofNat_mod (a b : Byte) : a + b = BitVec.ofNat 8 ((a.toNat + b.toNat) % 256) :=
  BitVec.eq_of_toNat_eq (by simp)

/-- Settles O23: both instructions write one register and advance; the byte written by add-immediate is the sum
modulo 256. -/
theorem immediateLoadsAndAdds : Obligations.ImmediateLoadsAndAdds := by
  intro x nn s
  refine ⟨decode_encodeI_loadImmediate x nn, decode_encodeI_addImmediate x nn,
    completesRegister_of_exec_eq_setReg_advance (exec_loadImmediate x nn s), ?_⟩
  rw [← byte_add_eq_ofNat_mod]
  exact completesRegister_of_exec_eq_setReg_advance (exec_addImmediate x nn s)

/-- Settles O24: all four write one register and advance, and each logic operation acts bit by bit. -/
theorem moveAndLogicWriteOnlyTheDestination : Obligations.MoveAndLogicWriteOnlyTheDestination := by
  intro x y s
  exact ⟨decode_encodeR_registerMove x y, decode_encodeR_registerOr x y, decode_encodeR_registerAnd x y,
    decode_encodeR_registerXor x y,
    completesRegister_of_exec_eq_setReg_advance (exec_registerMove x y s),
    ⟨_, completesRegister_of_exec_eq_setReg_advance (exec_registerOr x y s), fun _ => BitVec.getLsbD_or⟩,
    ⟨_, completesRegister_of_exec_eq_setReg_advance (exec_registerAnd x y s), fun _ => BitVec.getLsbD_and⟩,
    ⟨_, completesRegister_of_exec_eq_setReg_advance (exec_registerXor x y s), fun _ => BitVec.getLsbD_xor⟩⟩

end Sys2Proof.Machine
end

section
/-! SUPPORT. The index register (spec/44_index_memory.md R130 to R132): what is left to be shown of an instruction
that writes I and advances, and the three instructions that do no more. -/

namespace Sys2Proof

/-- Every word of format A with the major opcode A is a set-index (R65). -/
theorem decode_encodeA_setIndex (nnn : Literal12) : decode (encodeA 0xA nnn) = .ok (.setIndex nnn) := by
  simp [decode]

/-- The words of format I with the major opcode F are decoded by the minor opcode NN (R64). -/
theorem decode_encodeI_extended (x : RegIdx) (nn : Byte) :
    decode (encodeI 0xF x nn) = decodeExtended (encodeI 0xF x nn) := by
  simp [decode]

/-- A word of format F with the minor opcode 1E is an add-to-index (R65). -/
theorem decode_encodeI_addToIndex (x : RegIdx) : decode (encodeI 0xF x 0x1E) = .ok (.addToIndex x) := by
  rw [decode_encodeI_extended]; simp [decodeExtended]

/-- A word of format F with the minor opcode 29 is a font-address (R65). -/
theorem decode_encodeI_fontAddress (x : RegIdx) : decode (encodeI 0xF x 0x29) = .ok (.fontAddress x) := by
  rw [decode_encodeI_extended]; simp [decodeExtended]

end Sys2Proof

namespace Sys2Proof.Machine

@[simp] theorem exec_setIndex (nnn : Literal12) (s : State) :
    exec (.setIndex nnn) s = .next (s.setIndex (literalAddress nnn)).advance := rfl

@[simp] theorem exec_addToIndex (x : RegIdx) (s : State) :
    exec (.addToIndex x) s = .next (s.setIndex (s.i + wideByte (s.reg x))).advance := rfl

@[simp] theorem exec_fontAddress (x : RegIdx) (s : State) :
    exec (.fontAddress x) s = .next (s.setIndex (wideByte (s.reg x) * 5)).advance := rfl

/-- A write of I keeps every frame that names the index. -/
theorem Frame.setIndex {T : Touch} {s t : State} (h : Frame T s t) (hT : T.index = true) (w : Word) :
    Frame T s (t.setIndex w) :=
  { h with index := fun hfalse => absurd (hT.symm.trans hfalse) Bool.noConfusion }

/-- An instruction that writes `w` to I and advances completes with I at the number of `w` and writes nothing
else (R83). -/
theorem completesIndex_of_exec_eq_setIndex_advance {i : Instr} {s : State} {w : Word} {n : Nat}
    (hexec : exec i s = .next (s.setIndex w).advance) (hw : w.toNat = n) :
    ∃ t, exec i s = .next t ∧ t.i.toNat = n ∧ t.pc = s.pc + 2 ∧ Frame { index := true } s t :=
  ⟨_, hexec, hw, rfl, ((Frame.refl _ s).setIndex rfl w).advance⟩

/-- A byte is added to a word modulo 65536 (R131). -/
theorem word_add_wideByte_toNat (w : Word) (b : Byte) :
    (w + wideByte b).toNat = (w.toNat + b.toNat) % 65536 := by
  rw [BitVec.toNat_add, wideByte_toNat]

/-- Five times a byte is at most 0x4FB, so it has no carry out of 16 bits (R132). -/
theorem wideByte_mul_five_toNat (b : Byte) : (wideByte b * 5).toNat = b.toNat * 5 := by
  have hb : b.toNat < 256 := b.isLt
  have hfive : (5 : Word).toNat = 5 := rfl
  rw [BitVec.toNat_mul, wideByte_toNat, hfive, Nat.mod_eq_of_lt (by omega)]

/-- Settles O30: all three write I and advance; the sum with a byte wraps at 16 bits, and five times a byte does
not. -/
theorem indexInstructionsWriteOnlyTheIndex : Obligations.IndexInstructionsWriteOnlyTheIndex := by
  intro x nnn s
  exact ⟨decode_encodeA_setIndex nnn, decode_encodeI_addToIndex x, decode_encodeI_fontAddress x,
    completesIndex_of_exec_eq_setIndex_advance (exec_setIndex nnn s) (literalAddress_toNat nnn),
    completesIndex_of_exec_eq_setIndex_advance (exec_addToIndex x s) (word_add_wideByte_toNat s.i (s.reg x)),
    completesIndex_of_exec_eq_setIndex_advance (exec_fontAddress x s) (wideByte_mul_five_toNat (s.reg x))⟩

end Sys2Proof.Machine
end

section
/-! SUPPORT. The keypad and timer instructions (spec/46_keypad_timer.md): what a key test and a wait for a key
decide, and the instructions that move a byte between a register and a timer. -/

namespace Sys2Proof

/-- The words of format I with the major opcode E are decoded by the minor opcode NN (R64). -/
theorem decode_encodeI_key (x : RegIdx) (nn : Byte) :
    decode (encodeI 0xE x nn) = decodeKey (encodeI 0xE x nn) := by
  simp [decode]

/-- A word of format I with the opcodes E and 9E is a skip-if-key-pressed (R65). -/
theorem decode_encodeI_skipIfKeyPressed (x : RegIdx) :
    decode (encodeI 0xE x 0x9E) = .ok (.skipIfKeyPressed x) := by
  rw [decode_encodeI_key]; simp [decodeKey]

/-- A word of format I with the opcodes E and A1 is a skip-if-key-not-pressed (R65). -/
theorem decode_encodeI_skipIfKeyNotPressed (x : RegIdx) :
    decode (encodeI 0xE x 0xA1) = .ok (.skipIfKeyNotPressed x) := by
  rw [decode_encodeI_key]; simp [decodeKey]

/-- A word of format I with the opcodes F and 07 is a get-delay-timer (R65). -/
theorem decode_encodeI_getDelayTimer (x : RegIdx) : decode (encodeI 0xF x 0x07) = .ok (.getDelayTimer x) := by
  rw [decode_encodeI_extended]; simp [decodeExtended]

/-- A word of format I with the opcodes F and 0A is a wait-for-key (R65). -/
theorem decode_encodeI_waitForKey (x : RegIdx) : decode (encodeI 0xF x 0x0A) = .ok (.waitForKey x) := by
  rw [decode_encodeI_extended]; simp [decodeExtended]

/-- A word of format I with the opcodes F and 15 is a set-delay-timer (R65). -/
theorem decode_encodeI_setDelayTimer (x : RegIdx) : decode (encodeI 0xF x 0x15) = .ok (.setDelayTimer x) := by
  rw [decode_encodeI_extended]; simp [decodeExtended]

/-- A word of format I with the opcodes F and 18 is a set-sound-timer (R65). -/
theorem decode_encodeI_setSoundTimer (x : RegIdx) : decode (encodeI 0xF x 0x18) = .ok (.setSoundTimer x) := by
  rw [decode_encodeI_extended]; simp [decodeExtended]

end Sys2Proof

namespace Sys2Proof.Machine

@[simp] theorem exec_skipIfKeyPressed (x : RegIdx) (s : State) :
    exec (.skipIfKeyPressed x) s = .next (s.skipIf (s.pressed (s.reg x))) := rfl

@[simp] theorem exec_skipIfKeyNotPressed (x : RegIdx) (s : State) :
    exec (.skipIfKeyNotPressed x) s = .next (s.skipIf (!s.pressed (s.reg x))) := rfl

@[simp] theorem exec_getDelayTimer (x : RegIdx) (s : State) :
    exec (.getDelayTimer x) s = .next (s.setReg x s.dt).advance := rfl

@[simp] theorem exec_setDelayTimer (x : RegIdx) (s : State) :
    exec (.setDelayTimer x) s = .next (s.setDelay (s.reg x)).advance := rfl

@[simp] theorem exec_setSoundTimer (x : RegIdx) (s : State) :
    exec (.setSoundTimer x) s = .next (s.setSound (s.reg x)).advance := rfl

/-- A byte reads as pressed exactly if it is the code of a pressed key: no byte above 15 is one (R156). -/
theorem State.pressed_iff (s : State) (b : Byte) :
    s.pressed b = true ↔ ∃ k : Fin 16, k.val = b.toNat ∧ s.keys[k] = true := by
  by_cases hb : b.toNat < 16
  · rw [State.pressed_of_lt s b hb]
    constructor
    · intro hkey
      exact ⟨⟨b.toNat, hb⟩, rfl, hkey⟩
    · rintro ⟨⟨_, _⟩, rfl, hkey⟩
      exact hkey
  · rw [State.pressed_of_ge s b (Nat.not_lt.1 hb)]
    constructor
    · exact fun hfalse => absurd hfalse Bool.false_ne_true
    · rintro ⟨k, hk, -⟩
      exact absurd (hk ▸ k.isLt) hb

/-- Settles O22: both instructions apply the skip law, with the key test and its negation. -/
theorem skipsOnAKey : Obligations.SkipsOnAKey := by
  intro x s
  have hpressed := State.pressed_iff s (s.reg x)
  have hreleased : (!s.pressed (s.reg x)) = true ↔ ¬ s.pressed (s.reg x) = true := by simp
  exact ⟨decode_encodeI_skipIfKeyPressed x, decode_encodeI_skipIfKeyNotPressed x,
    completesSkip_of_exec_eq_skipIf (exec_skipIfKeyPressed x s) hpressed,
    completesSkip_of_exec_eq_skipIf (exec_skipIfKeyNotPressed x s) (hreleased.trans hpressed.not)⟩

/-- The set of pressed keys is empty exactly if every key is released (R152). -/
theorem State.pressedKeys_eq_nil_iff (s : State) :
    s.pressedKeys = [] ↔ ∀ k : Fin 16, s.keys[k] = false := by
  simp [List.eq_nil_iff_forall_not_mem, State.mem_pressedKeys]

/-- All that wait-for-key can do: with every key released it answers the same state, else it draws a pressed key
and writes its code (R152). -/
theorem exec_waitForKey_cases (x : RegIdx) (s : State) :
    ((∀ k : Fin 16, s.keys[k] = false) ∧ exec (.waitForKey x) s = .next s) ∨
      ∃ k : Fin 16, s.keys[k] = true ∧
        exec (.waitForKey x) s = .next (s.setReg x (BitVec.ofNat 8 k.val)).countDraw.advance := by
  have hexec : exec (.waitForKey x) s = execWaitForKey x s := rfl
  rw [hexec]
  cases hselect : selectKey s.draws s.pressedKeys with
  | none =>
    have hnil : s.pressedKeys = [] := (selectKey_eq_none_iff _ _).1 hselect
    exact .inl ⟨s.pressedKeys_eq_nil_iff.1 hnil, by simp [execWaitForKey, hselect]⟩
  | some k =>
    have hkey : s.keys[k] = true := (s.mem_pressedKeys k).1 (selectKey_mem hselect)
    exact .inr ⟨k, hkey, by simp [execWaitForKey, hselect]⟩

/-- A key code fits in a byte. -/
theorem ofNat_keyCode_toNat (k : Fin 16) : (BitVec.ofNat 8 k.val).toNat = k.val :=
  (BitVec.toNat_ofNat _ _).trans (Nat.mod_eq_of_lt (by omega))

/-- A draw keeps every frame that names the draw counter. -/
theorem Frame.countDraw {T : Touch} {s t : State} (h : Frame T s t) (hT : T.draws = true) :
    Frame T s t.countDraw :=
  { h with draws := fun hfalse => absurd (hT.symm.trans hfalse) Bool.noConfusion }

/-- Settles O38: the two cases of wait-for-key exclude each other by whether a key is pressed. -/
theorem waitForKeyTakesAPressedKey : Obligations.WaitForKeyTakesAPressedKey := by
  intro x s
  refine ⟨decode_encodeI_waitForKey x, ?_⟩
  obtain ⟨hreleased, hexec⟩ | ⟨k, hkey, hexec⟩ := exec_waitForKey_cases x s
  · exact ⟨fun _ => hexec, fun ⟨j, hj⟩ => absurd (hj.symm.trans (hreleased j)) Bool.noConfusion⟩
  · refine ⟨fun hreleased => absurd (hkey.symm.trans (hreleased k)) Bool.noConfusion, fun _ => ?_⟩
    have hcode : ((s.setReg x (BitVec.ofNat 8 k.val)).countDraw.advance.reg x).toNat = k.val :=
      (congrArg BitVec.toNat (State.reg_setReg_self s x _)).trans (ofNat_keyCode_toNat k)
    exact ⟨_, k, hexec, hkey, hcode, rfl,
      (((Frame.refl _ s).setReg (List.mem_singleton_self x) _).countDraw rfl).advance⟩

/-- A write of DT keeps every frame that names the delay timer. -/
theorem Frame.setDelay {T : Touch} {s t : State} (h : Frame T s t) (hT : T.delay = true) (b : Byte) :
    Frame T s (t.setDelay b) :=
  { h with delay := fun hfalse => absurd (hT.symm.trans hfalse) Bool.noConfusion }

/-- A write of ST keeps every frame that names the sound timer. -/
theorem Frame.setSound {T : Touch} {s t : State} (h : Frame T s t) (hT : T.sound = true) (b : Byte) :
    Frame T s (t.setSound b) :=
  { h with sound := fun hfalse => absurd (hT.symm.trans hfalse) Bool.noConfusion }

/-- Settles O39: each of the three writes one item and advances. -/
theorem timerInstructionsMoveOneByte : Obligations.TimerInstructionsMoveOneByte := by
  intro x s
  exact ⟨decode_encodeI_getDelayTimer x, decode_encodeI_setDelayTimer x, decode_encodeI_setSoundTimer x,
    completesRegister_of_exec_eq_setReg_advance (exec_getDelayTimer x s),
    ⟨_, exec_setDelayTimer x s, rfl, rfl, ((Frame.refl _ s).setDelay rfl _).advance⟩,
    ⟨_, exec_setSoundTimer x s, rfl, rfl, ((Frame.refl _ s).setSound rfl _).advance⟩⟩

end Sys2Proof.Machine
end

section
/-! SUPPORT. The soft faults (spec/60_exceptions.md R160 to R164): that one writes nothing but its log event, which
instruction raises which, and the call on a full stack. -/

namespace Sys2Proof

/-- The cause of the log event an instruction can emit; only the call on a full stack, the return on an empty
stack and system-call emit one (R161, R162, R164). -/
def Instr.softCause : Instr → Option Machine.Cause
  | .returnSub => some .stackUnderflow
  | .systemCall _ => some .syscallWarn
  | .call _ => some .stackOverflow
  | _ => none

/-- STACK_OVERFLOW is the cause of calls alone (R161). -/
theorem Instr.softCause_eq_stackOverflow_iff (i : Instr) :
    i.softCause = some .stackOverflow ↔ ∃ nnn, i = .call nnn := by
  constructor
  · intro h
    cases i with
    | call nnn => exact ⟨nnn, rfl⟩
    | _ => cases h
  · rintro ⟨nnn, rfl⟩
    rfl

end Sys2Proof

namespace Sys2Proof.Machine

/-- An event keeps every frame that names the events. -/
theorem Frame.emit {T : Touch} {s t : State} (h : Frame T s t) (hT : T.events = true) (e : Event) :
    Frame T s (t.emit e) :=
  { h with events := fun hfalse => absurd (hT.symm.trans hfalse) Bool.noConfusion }

/-- An instruction that answers a soft fault completes with one more event and nothing else (R160). -/
theorem completesSoftly_of_exec_eq_softFault {i : Instr} {s : State} {cause : Cause} {word : Word}
    (h : exec i s = softFault cause word s) : CompletesSoftly i s cause word :=
  ⟨_, h, rfl, rfl, (Frame.refl _ s).emit rfl _⟩

/-- All that return can do: the soft fault on an empty stack, else a pop into PC (R90, R162). -/
theorem exec_returnSub_cases (s : State) :
    (s.sp = 0 ∧ exec .returnSub s = softFault .stackUnderflow (encode .returnSub) s) ∨
      (0 < s.sp ∧ exec .returnSub s = .next (s.pop.setPc s.top)) := by
  obtain hempty | hsp := Nat.eq_zero_or_pos s.sp
  · exact .inl ⟨hempty, if_pos hempty⟩
  · exact .inr ⟨hsp, if_neg hsp.ne'⟩

/-- All that call can do: a push of the return address where an entry is free, else the soft fault (R93, R161). -/
theorem exec_call_cases (nnn : Literal12) (s : State) :
    (s.sp < 16 ∧ exec (.call nnn) s = .next ((s.push (s.pc + 2)).setPc (literalAddress nnn))) ∨
      (16 ≤ s.sp ∧ exec (.call nnn) s = softFault .stackOverflow (encode (.call nnn)) s) := by
  obtain hsp | hfull := Nat.lt_or_ge s.sp 16
  · exact .inl ⟨hsp, if_pos hsp⟩
  · exact .inr ⟨hfull, if_neg (Nat.not_lt.2 hfull)⟩

/-- An instruction without a cause emits no event: it writes by the named operations, and of these only `emit`
writes the events. -/
theorem exec_next_events_of_softCause_none {i : Instr} {s t : State} (hi : i.softCause = none)
    (h : exec i s = .next t) : t.events = s.events := by
  cases i with
  | returnSub | systemCall | call => cases hi
  | waitForKey x =>
    obtain ⟨-, hexec⟩ | ⟨k, -, hexec⟩ := exec_waitForKey_cases x s
    all_goals
      cases hexec.symm.trans h
      rfl
  | drawSprite | storeBcd | storeRegisters | loadRegisters =>
    obtain ⟨-, rfl⟩ := State.ranged_next h
    simp
  | _ =>
    cases h
    rfl

/-- All the events an instruction can emit: none, or one log of its own cause with its own word (R160, R169). -/
theorem exec_next_events_cases {i : Instr} {s t : State} (h : exec i s = .next t) :
    t.events = s.events ∨
      ∃ cause, i.softCause = some cause ∧ t.events = s.events ++ [.log cause (encode i)] := by
  cases hi : i.softCause with
  | none => exact .inl (exec_next_events_of_softCause_none hi h)
  | some cause =>
    cases i with
    | returnSub =>
      obtain ⟨-, hexec⟩ | ⟨-, hexec⟩ := exec_returnSub_cases s
      · cases hi; cases hexec.symm.trans h
        exact .inr ⟨_, rfl, rfl⟩
      · cases hexec.symm.trans h
        exact .inl rfl
    | systemCall nnn =>
      cases hi; cases h
      exact .inr ⟨_, rfl, rfl⟩
    | call nnn =>
      obtain ⟨-, hexec⟩ | ⟨-, hexec⟩ := exec_call_cases nnn s
      · cases hexec.symm.trans h
        exact .inl rfl
      · cases hi; cases hexec.symm.trans h
        exact .inr ⟨_, rfl, rfl⟩
    | _ => cases hi

/-- A log event that an instruction has emitted is of its own cause and carries its own word. -/
theorem softCause_of_log_mem_events {i : Instr} {s t : State} {cause : Cause} {w : Word} (hs : s.events = [])
    (h : exec i s = .next t) (hlog : .log cause w ∈ t.events) : i.softCause = some cause ∧ w = encode i := by
  obtain hnone | ⟨c, hc, hone⟩ := exec_next_events_cases h
  · rw [hnone, hs] at hlog
    cases hlog
  · rw [hone, hs, List.nil_append, List.mem_singleton] at hlog
    cases hlog
    exact ⟨hc, rfl⟩

/-- Settles O13: with SP = 16 no entry is free, so a call is the soft fault; and the cause STACK_OVERFLOW is that
of calls alone. -/
theorem callOnFullStackChangesNothing : Obligations.CallOnFullStackChangesNothing := by
  constructor
  · intro nnn s hsp
    obtain ⟨hroom, -⟩ | ⟨-, hfault⟩ := exec_call_cases nnn s
    · omega
    · exact completesSoftly_of_exec_eq_softFault hfault
  · intro i s t w hs h hlog
    obtain ⟨hcause, -⟩ := softCause_of_log_mem_events hs h hlog
    exact i.softCause_eq_stackOverflow_iff.1 hcause

end Sys2Proof.Machine
end

section
/-! SUPPORT. The decoder and the encoder as a whole (spec/30_encoding.md): each undoes the other, the decoder is
first-match dispatch over the opcode map, and the words it rejects. -/

namespace Sys2Proof

/-! ### Fields of a literal word, and words compared by their fields -/

theorem fieldN1_ofNat (k : Nat) : fieldN1 (BitVec.ofNat 16 k) = BitVec.ofNat 4 (k / 4096) := by
  apply BitVec.eq_of_toNat_eq; rw [fieldN1_toNat, BitVec.toNat_ofNat, BitVec.toNat_ofNat]; omega

theorem fieldX_ofNat (k : Nat) : fieldX (BitVec.ofNat 16 k) = BitVec.ofNat 4 (k / 256) := by
  apply BitVec.eq_of_toNat_eq; rw [fieldX_toNat, BitVec.toNat_ofNat, BitVec.toNat_ofNat]; omega

theorem fieldY_ofNat (k : Nat) : fieldY (BitVec.ofNat 16 k) = BitVec.ofNat 4 (k / 16) := by
  apply BitVec.eq_of_toNat_eq; rw [fieldY_toNat, BitVec.toNat_ofNat, BitVec.toNat_ofNat]; omega

theorem fieldN_ofNat (k : Nat) : fieldN (BitVec.ofNat 16 k) = BitVec.ofNat 4 k := by
  apply BitVec.eq_of_toNat_eq; rw [fieldN_toNat, BitVec.toNat_ofNat, BitVec.toNat_ofNat]; omega

theorem fieldNN_ofNat (k : Nat) : fieldNN (BitVec.ofNat 16 k) = BitVec.ofNat 8 k := by
  apply BitVec.eq_of_toNat_eq; rw [fieldNN_toNat, BitVec.toNat_ofNat, BitVec.toNat_ofNat]; omega

theorem fieldNNN_ofNat (k : Nat) : fieldNNN (BitVec.ofNat 16 k) = BitVec.ofNat 12 k := by
  apply BitVec.eq_of_toNat_eq; rw [fieldNNN_toNat, BitVec.toNat_ofNat, BitVec.toNat_ofNat]; omega

theorem encodeA_eq_iff (n1 : Nibble) (nnn : Literal12) (w : Word) :
    encodeA n1 nnn = w ↔ n1 = fieldN1 w ∧ nnn = fieldNNN w :=
  ⟨fun h => by simp [← h], fun ⟨h1, h2⟩ => h1 ▸ h2 ▸ encodeA_fields w⟩

theorem encodeI_eq_iff (n1 : Nibble) (x : RegIdx) (nn : Byte) (w : Word) :
    encodeI n1 x nn = w ↔ n1 = fieldN1 w ∧ x = fieldX w ∧ nn = fieldNN w :=
  ⟨fun h => by simp [← h], fun ⟨h1, h2, h3⟩ => h1 ▸ h2 ▸ h3 ▸ encodeI_fields w⟩

theorem encodeR_eq_iff (n1 : Nibble) (x y : RegIdx) (n : Nibble) (w : Word) :
    encodeR n1 x y n = w ↔ n1 = fieldN1 w ∧ x = fieldX w ∧ y = fieldY w ∧ n = fieldN w :=
  ⟨fun h => by simp [← h], fun ⟨h1, h2, h3, h4⟩ => h1 ▸ h2 ▸ h3 ▸ h4 ▸ encodeR_fields w⟩

/-- Two words are equal if their major opcodes and their literals are. -/
theorem word_eq_iff_fields (w w' : Word) : w = w' ↔ fieldN1 w = fieldN1 w' ∧ fieldNNN w = fieldNNN w' := by
  rw [← encodeA_eq_iff, encodeA_fields]

/-! ### Decoding an encoded instruction -/

/-- A word of format A with the major opcode 0 is a system-call unless it is one of the two words that stand before
it in the map (R64, R68). -/
theorem decode_encodeA_systemCall {nnn : Literal12} (hclear : nnn ≠ 0x0E0) (hreturn : nnn ≠ 0x0EE) :
    decode (encodeA 0x0 nnn) = .ok (.systemCall nnn) := by
  have hE0 : encodeA 0x0 nnn ≠ 0x00E0 := fun h => hclear ((encodeA_eq_iff _ _ _).1 h).2
  have hEE : encodeA 0x0 nnn ≠ 0x00EE := fun h => hreturn ((encodeA_eq_iff _ _ _).1 h).2
  have hsystem : decode (encodeA 0x0 nnn) = .ok (decodeSystem (encodeA 0x0 nnn)) := by simp [decode]
  rw [hsystem, decodeSystem, if_neg hE0, if_neg hEE, fieldNNN_encodeA]

/-- Decoding the word of a well-formed instruction gives it back: every field is read from where its format put
it (R61, R62). -/
theorem decode_encode {i : Instr} (h : i.wellFormed = true) : decode (encode i) = .ok i := by
  cases i with
  | clearScreen | returnSub => rfl
  | systemCall nnn =>
    obtain ⟨hclear, hreturn⟩ : nnn ≠ 0x0E0 ∧ nnn ≠ 0x0EE := by simpa [Instr.wellFormed] using h
    exact decode_encodeA_systemCall hclear hreturn
  | _ => simp [encode, decode, decodeAlu, decodeKey, decodeExtended]

/-- Settles O2: the two bytes make up the word again, and the decoder undoes the encoder on it. -/
theorem decodeOfEncodeIsTheInstruction : Obligations.DecodeOfEncodeIsTheInstruction := by
  intro i rest hwf
  simp [encodeBytes, decodeBytes, wordOfBytes_bytes, decode_encode hwf]

/-- Settles O1: words of a few digits, decoded by computation. -/
theorem sampleWordsDecode : Obligations.SampleWordsDecode := by
  unfold Obligations.SampleWordsDecode
  decide

/-- A word of format R with the major opcode 5 is recognized with the low nibble 0 alone (R67). -/
theorem decode_encodeR_skipEqualRegisters (x y : RegIdx) (n : Nibble) :
    decode (encodeR 0x5 x y n) =
      if n = 0 then .ok (.skipEqualRegisters x y) else .error (.unrecognizedWord (encodeR 0x5 x y n)) := by
  simp [decode]

/-- A word of format R with the major opcode 9 is recognized with the low nibble 0 alone (R67). -/
theorem decode_encodeR_skipNotEqualRegisters (x y : RegIdx) (n : Nibble) :
    decode (encodeR 0x9 x y n) =
      if n = 0 then .ok (.skipNotEqualRegisters x y) else .error (.unrecognizedWord (encodeR 0x9 x y n)) := by
  simp [decode]

/-! ### Encoding a decoded word -/

/-- A word of format A is made of its major opcode and its literal. -/
theorem encodeA_of_fields {w : Word} {n1 : Nibble} (h1 : fieldN1 w = n1) : encodeA n1 (fieldNNN w) = w :=
  h1 ▸ encodeA_fields w

/-- A word of format I is made of its major opcode, its register and its byte; in format F the byte is the minor
opcode. -/
theorem encodeI_of_fields {w : Word} {n1 : Nibble} {nn : Byte} (h1 : fieldN1 w = n1) (hnn : fieldNN w = nn) :
    encodeI n1 (fieldX w) nn = w :=
  h1 ▸ hnn ▸ encodeI_fields w

/-- A word of format R is made of its major opcode, its two registers and its minor opcode. -/
theorem encodeR_of_fields {w : Word} {n1 n : Nibble} (h1 : fieldN1 w = n1) (hn : fieldN w = n) :
    encodeR n1 (fieldX w) (fieldY w) n = w :=
  h1 ▸ hn ▸ encodeR_fields w

/-- The family of the major opcode 0: a literal other than those of the two exact words is that of a system-call. -/
theorem encode_decodeSystem {w : Word} (h1 : fieldN1 w = 0x0) :
    encode (decodeSystem w) = w ∧ (decodeSystem w).wellFormed = true := by
  have hw : encodeA 0x0 (fieldNNN w) = w := encodeA_of_fields h1
  unfold decodeSystem
  split_ifs with hclear hreturn
  · exact ⟨hclear.symm, rfl⟩
  · exact ⟨hreturn.symm, rfl⟩
  · have hE0 : fieldNNN w ≠ 0x0E0 := fun hk => hclear (by rw [← hw, hk]; rfl)
    have hEE : fieldNNN w ≠ 0x0EE := fun hk => hreturn (by rw [← hw, hk]; rfl)
    exact ⟨hw, by simpa [Instr.wellFormed] using And.intro hE0 hEE⟩

/-- The family of the major opcode 8: the minor opcode is the nibble N. -/
theorem encode_of_decodeAlu {w : Word} {i : Instr} (h1 : fieldN1 w = 0x8) (h : decodeAlu w = .ok i) :
    encode i = w ∧ i.wellFormed = true := by
  unfold decodeAlu at h
  split_ifs at h with hn hn hn hn hn hn hn hn hn
  all_goals
    cases h
    exact ⟨encodeR_of_fields h1 hn, rfl⟩

/-- The family of the major opcode E: the minor opcode is the byte NN. -/
theorem encode_of_decodeKey {w : Word} {i : Instr} (h1 : fieldN1 w = 0xE) (h : decodeKey w = .ok i) :
    encode i = w ∧ i.wellFormed = true := by
  unfold decodeKey at h
  split_ifs at h with hnn hnn
  all_goals
    cases h
    exact ⟨encodeI_of_fields h1 hnn, rfl⟩

/-- The family of the major opcode F: the minor opcode is the byte NN. -/
theorem encode_of_decodeExtended {w : Word} {i : Instr} (h1 : fieldN1 w = 0xF) (h : decodeExtended w = .ok i) :
    encode i = w ∧ i.wellFormed = true := by
  unfold decodeExtended at h
  split_ifs at h with hnn hnn hnn hnn hnn hnn hnn hnn hnn
  all_goals
    cases h
    exact ⟨encodeI_of_fields h1 hnn, rfl⟩

/-- The sixteen values of a nibble. -/
theorem nibble_cases (n : Nibble) :
    n = 0x0 ∨ n = 0x1 ∨ n = 0x2 ∨ n = 0x3 ∨ n = 0x4 ∨ n = 0x5 ∨ n = 0x6 ∨ n = 0x7 ∨ n = 0x8 ∨ n = 0x9 ∨
      n = 0xA ∨ n = 0xB ∨ n = 0xC ∨ n = 0xD ∨ n = 0xE ∨ n = 0xF := by
  revert n; decide

/-- Settles O3: by the major opcode, then by the family; in each format the fields make up the word. -/
theorem encodeOfDecodeIsTheWord : Obligations.EncodeOfDecodeIsTheWord := by
  intro w i h
  obtain h1 | h1 | h1 | h1 | h1 | h1 | h1 | h1 | h1 | h1 | h1 | h1 | h1 | h1 | h1 | h1 :=
    nibble_cases (fieldN1 w)
  all_goals
    simp only [decode, h1, BitVec.ofNat_eq_ofNat, BitVec.reduceEq, ↓reduceIte, Except.ok.injEq] at h
  · exact h ▸ encode_decodeSystem h1
  · exact h ▸ ⟨encodeA_of_fields h1, rfl⟩
  · exact h ▸ ⟨encodeA_of_fields h1, rfl⟩
  · exact h ▸ ⟨encodeI_of_fields h1 rfl, rfl⟩
  · exact h ▸ ⟨encodeI_of_fields h1 rfl, rfl⟩
  · split_ifs at h with hn
    cases h
    exact ⟨encodeR_of_fields h1 hn, rfl⟩
  · exact h ▸ ⟨encodeI_of_fields h1 rfl, rfl⟩
  · exact h ▸ ⟨encodeI_of_fields h1 rfl, rfl⟩
  · exact encode_of_decodeAlu h1 h
  · split_ifs at h with hn
    cases h
    exact ⟨encodeR_of_fields h1 hn, rfl⟩
  · exact h ▸ ⟨encodeA_of_fields h1, rfl⟩
  · exact h ▸ ⟨encodeA_of_fields h1, rfl⟩
  · exact h ▸ ⟨encodeI_of_fields h1 rfl, rfl⟩
  · exact h ▸ ⟨encodeR_of_fields h1 rfl, rfl⟩
  · exact encode_of_decodeKey h1 h
  · exact encode_of_decodeExtended h1 h

/-! ### First-match dispatch over the map -/

/-- First-match dispatch over a list of rows, row by row (R64). -/
def firstMatch (w : Word) : List OpcodeRow → Except Rejection Instr
  | [] => .error (.unrecognizedWord w)
  | r :: rows => if r.matches w then .ok (r.build w) else firstMatch w rows

theorem decodeByRows_eq_firstMatch (w : Word) : decodeByRows w = firstMatch w opcodeRows := by
  unfold decodeByRows
  induction opcodeRows with
  | nil => rfl
  | cons r rows ih =>
    cases hmatch : r.matches w
    · simpa [firstMatch, hmatch] using ih
    · simp [firstMatch, hmatch]

/-- The two exact rows match by all bits, that is by the major opcode and the literal. -/
theorem matches_of_mask_FFFF (mn : String) (build : Word → Instr) (bits w : Word) :
    OpcodeRow.matches ⟨mn, 0xFFFF#16, bits, build⟩ w =
      decide (fieldN1 w = fieldN1 bits ∧ fieldNNN w = fieldNNN bits) := by
  have hmask : w &&& 0xFFFF#16 = w := BitVec.and_allOnes
  simp only [OpcodeRow.matches, hmask, beq_eq_decide, word_eq_iff_fields w bits]

/-- A row of format A, I or D matches by the major opcode. -/
theorem matches_of_mask_F000 (mn : String) (build : Word → Instr) (bits w : Word) :
    OpcodeRow.matches ⟨mn, 0xF000#16, bits, build⟩ w =
      decide (fieldN1 w = fieldN1 bits ∧ 0 = fieldNNN bits) := by
  simp only [OpcodeRow.matches, and_F000, beq_eq_decide, encodeA_eq_iff]

/-- A row of format R matches by the major and the minor opcode. -/
theorem matches_of_mask_F00F (mn : String) (build : Word → Instr) (bits w : Word) :
    OpcodeRow.matches ⟨mn, 0xF00F#16, bits, build⟩ w =
      decide (fieldN1 w = fieldN1 bits ∧ 0 = fieldX bits ∧ 0 = fieldY bits ∧ fieldN w = fieldN bits) := by
  simp only [OpcodeRow.matches, and_F00F, beq_eq_decide, encodeR_eq_iff]

/-- A row of format F matches by the major opcode and NN. -/
theorem matches_of_mask_F0FF (mn : String) (build : Word → Instr) (bits w : Word) :
    OpcodeRow.matches ⟨mn, 0xF0FF#16, bits, build⟩ w =
      decide (fieldN1 w = fieldN1 bits ∧ 0 = fieldX bits ∧ fieldNN w = fieldNN bits) := by
  simp only [OpcodeRow.matches, and_F0FF, beq_eq_decide, encodeI_eq_iff]

/-- Settles O4: for each major opcode, the rows that can match leave the chain of tests that the decoder makes on
the minor opcode. -/
theorem decoderAgreesWithOrderedMap : Obligations.DecoderAgreesWithOrderedMap := by
  intro w
  rw [decodeByRows_eq_firstMatch]
  obtain h1 | h1 | h1 | h1 | h1 | h1 | h1 | h1 | h1 | h1 | h1 | h1 | h1 | h1 | h1 | h1 :=
    nibble_cases (fieldN1 w)
  all_goals
    simp [decode, decodeSystem, decodeAlu, decodeKey, decodeExtended, word_eq_iff_fields w, h1,
      apply_ite (Except.ok (ε := Rejection)), firstMatch,
      opcodeRows, opcodeRowsLow, opcodeRowsMiddle, opcodeRowsHigh,
      matches_of_mask_FFFF, matches_of_mask_F000, matches_of_mask_F00F, matches_of_mask_F0FF,
      fieldN1_ofNat, fieldX_ofNat, fieldY_ofNat, fieldN_ofNat, fieldNN_ofNat, fieldNNN_ofNat]

/-! ### The rejected words -/

/-- The family of the major opcode 8 rejects seven minor opcodes (R67). -/
theorem decodeAlu_eq_error_iff (w : Word) :
    decodeAlu w = .error (.unrecognizedWord w) ↔ (fieldN w).toNat ∈ [8, 9, 10, 11, 12, 13, 15] := by
  obtain hn | hn | hn | hn | hn | hn | hn | hn | hn | hn | hn | hn | hn | hn | hn | hn :=
    nibble_cases (fieldN w)
  all_goals simp [decodeAlu, hn]

/-- The family of the major opcode E rejects every minor opcode but two (R67). -/
theorem decodeKey_eq_error_iff (w : Word) :
    decodeKey w = .error (.unrecognizedWord w) ↔ (fieldNN w).toNat ∉ [0x9E, 0xA1] := by
  unfold decodeKey
  split_ifs with h9E hA1
  · simp [h9E]
  · simp [hA1]
  · simp_all [← BitVec.toNat_inj]

/-- The family of the major opcode F rejects every minor opcode but nine (R67). -/
theorem decodeExtended_eq_error_iff (w : Word) :
    decodeExtended w = .error (.unrecognizedWord w) ↔
      (fieldNN w).toNat ∉ [0x07, 0x0A, 0x15, 0x18, 0x1E, 0x29, 0x33, 0x55, 0x65] := by
  unfold decodeExtended
  split_ifs with h h h h h h h h h
  case neg => simp_all [← BitVec.toNat_inj]
  all_goals simp [h]

/-- Settles O5: by the major opcode; the two skips on registers test the nibble N, and each family its minor
opcode. -/
theorem unrecognizedWordsAreExactlyTheUnlisted : Obligations.UnrecognizedWordsAreExactlyTheUnlisted := by
  intro w
  simp only [← fieldN1_toNat, ← fieldN_toNat, ← fieldNN_toNat]
  obtain h1 | h1 | h1 | h1 | h1 | h1 | h1 | h1 | h1 | h1 | h1 | h1 | h1 | h1 | h1 | h1 :=
    nibble_cases (fieldN1 w)
  all_goals
    simp [decode, h1, decodeAlu_eq_error_iff, decodeKey_eq_error_iff, decodeExtended_eq_error_iff,
      ← BitVec.toNat_inj]

end Sys2Proof
end

section
/-! SUPPORT. What an instruction may write (spec/10_state.md, spec/40_step_cycle.md section 3): one case split over
the instructions for each kind of item. Four instructions run only within the range of memory, three have two
outcomes, and every other one applies a fixed chain of the named operations. -/

namespace Sys2Proof.Machine

/-- Every instruction is the range test of the bytes it touches and then one next state (R47, R165). -/
theorem exec_eq_ranged (i : Instr) (s : State) : ∃ t, exec i s = s.ranged (encode i) i.bytesTouched t := by
  cases i with
  | returnSub =>
    obtain ⟨-, hexec⟩ | ⟨-, hexec⟩ := exec_returnSub_cases s <;> exact ⟨_, hexec⟩
  | call nnn =>
    obtain ⟨-, hexec⟩ | ⟨-, hexec⟩ := exec_call_cases nnn s <;> exact ⟨_, hexec⟩
  | waitForKey x =>
    obtain ⟨-, hexec⟩ | ⟨k, -, hexec⟩ := exec_waitForKey_cases x s <;> exact ⟨_, hexec⟩
  | _ => exact ⟨_, rfl⟩

/-- Settles O48: the range test is all that can stop an instruction. -/
theorem instructionsStopOnlyOutOfRange : Obligations.InstructionsStopOnlyOutOfRange := by
  intro i s
  obtain ⟨t, hexec⟩ := exec_eq_ranged i s
  rw [hexec]
  split_ifs with hrange
  · exact State.ranged_fault _ t hrange.1 hrange.2
  · exact ⟨t, State.ranged_ok _ t fun hpos => Nat.le_of_not_lt fun hout => hrange ⟨hpos, hout⟩⟩

/-! ### The next states of the three instructions with two outcomes -/

theorem exec_returnSub_next_cases {s t : State} (h : exec .returnSub s = .next t) :
    (s.sp = 0 ∧ t = s.emit (.log .stackUnderflow (encode .returnSub))) ∨
      (0 < s.sp ∧ t = s.pop.setPc s.top) := by
  obtain ⟨hempty, hexec⟩ | ⟨hpos, hexec⟩ := exec_returnSub_cases s
  · exact .inl ⟨hempty, Host.Outcome.next.inj (h.symm.trans hexec)⟩
  · exact .inr ⟨hpos, Host.Outcome.next.inj (h.symm.trans hexec)⟩

theorem exec_call_next_cases {nnn : Literal12} {s t : State} (h : exec (.call nnn) s = .next t) :
    (s.sp < 16 ∧ t = (s.push (s.pc + 2)).setPc (literalAddress nnn)) ∨
      (16 ≤ s.sp ∧ t = s.emit (.log .stackOverflow (encode (.call nnn)))) := by
  obtain ⟨hroom, hexec⟩ | ⟨hfull, hexec⟩ := exec_call_cases nnn s
  · exact .inl ⟨hroom, Host.Outcome.next.inj (h.symm.trans hexec)⟩
  · exact .inr ⟨hfull, Host.Outcome.next.inj (h.symm.trans hexec)⟩

theorem exec_waitForKey_next_cases {x : RegIdx} {s t : State} (h : exec (.waitForKey x) s = .next t) :
    t = s ∨ ∃ k : Fin 16, t = (s.setReg x (BitVec.ofNat 8 k.val)).countDraw.advance := by
  obtain ⟨-, hexec⟩ | ⟨k, -, hexec⟩ := exec_waitForKey_cases x s
  · exact .inl (Host.Outcome.next.inj (h.symm.trans hexec))
  · exact .inr ⟨k, Host.Outcome.next.inj (h.symm.trans hexec)⟩

/-! ### Which item an instruction may change -/

/-- Settles O49: every write of an item but PC and the registers stands in the instruction's own chain of
operations, and only the instructions named have one that writes the item. -/
theorem onlyNamedInstructionsWriteAnItem : Obligations.OnlyNamedInstructionsWriteAnItem := by
  intro i s t h
  cases i with
  | returnSub =>
    obtain ⟨-, rfl⟩ | ⟨-, rfl⟩ := exec_returnSub_next_cases h <;> simp
  | call nnn =>
    obtain ⟨-, rfl⟩ | ⟨-, rfl⟩ := exec_call_next_cases h <;> simp
  | waitForKey x =>
    obtain rfl | ⟨k, rfl⟩ := exec_waitForKey_next_cases h <;> simp
  | drawSprite | storeBcd | storeRegisters | loadRegisters =>
    obtain ⟨-, rfl⟩ := State.ranged_next h
    simp
  | addRegisters | subRegisters | shiftRight | subReverse | shiftLeft =>
    cases h
    simp [State.flagThenResult]
  | _ =>
    cases h
    simp

/-- Settles O51: an instruction that does not steer PC ends its chain of operations with the default PC law. -/
theorem otherInstructionsAdvanceByTwo : Obligations.OtherInstructionsAdvanceByTwo := by
  intro i s t hi h
  cases i with
  | drawSprite | storeBcd | storeRegisters | loadRegisters =>
    obtain ⟨-, rfl⟩ := State.ranged_next h
    simp
  | returnSub | systemCall | jump | call | jumpWithOffset | skipEqualImmediate | skipNotEqualImmediate
  | skipEqualRegisters | skipNotEqualRegisters | skipIfKeyPressed | skipIfKeyNotPressed | waitForKey => cases hi
  | _ =>
    cases h
    rfl

/-- A register that one register write changes is the one written. -/
theorem State.eq_of_reg_setReg_ne {s : State} {x r : RegIdx} {b : Byte}
    (h : (s.setReg x b).reg r ≠ s.reg r) : r = x := by
  by_contra hne
  exact h (State.reg_setReg_of_ne s b hne)

/-- Of the flag-writing arithmetic only the destination and VF change (R123). -/
theorem State.eq_of_reg_flagThenResult_ne {s : State} {x r : RegIdx} {f b : Byte}
    (h : (s.flagThenResult x f b).reg r ≠ s.reg r) : r = x ∨ r = 15 := by
  by_contra hne
  obtain ⟨hx, h15⟩ := not_or.1 hne
  exact h (by rw [State.reg_flagThenResult, if_neg hx, if_neg h15])

/-- The registers numbered 0 to X are those whose number is at most X. -/
theorem mem_registers_upTo_iff (x r : RegIdx) :
    r ∈ (List.range (x.toNat + 1)).map (BitVec.ofNat 4) ↔ r.toNat ≤ x.toNat := by
  rw [List.mem_map]
  constructor
  · rintro ⟨k, hk, rfl⟩
    rw [List.mem_range] at hk
    exact (Nat.mod_le k 16).trans (Nat.le_of_lt_succ hk)
  · intro hr
    exact ⟨r.toNat, List.mem_range.2 (Nat.lt_succ_of_le hr), by simp⟩

/-- Loading a block gives V[0] .. V[X] the bytes at I .. I + X and leaves the registers above (R135). -/
theorem State.reg_setRegsFrom_bytesAtIndex (s : State) (x r : RegIdx) :
    (s.setRegsFrom 0 (s.bytesAtIndex (x.toNat + 1))).reg r =
      if r.toNat ≤ x.toNat then s.readByte (s.i.toNat + r.toNat) else s.reg r := by
  have hlen : 0 + (s.bytesAtIndex (x.toNat + 1)).length ≤ 16 := by
    rw [State.bytesAtIndex_length]
    omega
  rw [State.reg_setRegsFrom s 0 _ r hlen, if_pos (Nat.zero_le _), Nat.sub_zero, State.bytesAtIndex_getElem?]
  simp only [Nat.lt_succ_iff]
  split_ifs <;> rfl

/-- Settles O50: by the kind of the write, one register, the flag and then the result, VF of a sprite, a block
from V[0] on, or none. -/
theorem registersChangeOnlyAsNamed : Obligations.RegistersChangeOnlyAsNamed := by
  intro i s t r h hne
  cases i with
  | returnSub =>
    obtain ⟨-, rfl⟩ | ⟨-, rfl⟩ := exec_returnSub_next_cases h <;> exact absurd rfl hne
  | call nnn =>
    obtain ⟨-, rfl⟩ | ⟨-, rfl⟩ := exec_call_next_cases h <;> exact absurd rfl hne
  | waitForKey x =>
    obtain rfl | ⟨k, rfl⟩ := exec_waitForKey_next_cases h
    · exact absurd rfl hne
    · exact .inl (List.mem_singleton.2 (State.eq_of_reg_setReg_ne hne))
  | loadImmediate | addImmediate | registerMove | registerOr | registerAnd | registerXor | randomAnd
  | getDelayTimer =>
    cases h
    exact .inl (List.mem_singleton.2 (State.eq_of_reg_setReg_ne hne))
  | addRegisters | subRegisters | shiftRight | subReverse | shiftLeft =>
    cases h
    exact (State.eq_of_reg_flagThenResult_ne hne).imp List.mem_singleton.2 fun h15 => ⟨h15, rfl⟩
  | drawSprite =>
    obtain ⟨-, rfl⟩ := State.ranged_next h
    exact .inr ⟨State.eq_of_reg_setReg_ne hne, rfl⟩
  | loadRegisters x =>
    obtain ⟨-, rfl⟩ := State.ranged_next h
    refine .inl ((mem_registers_upTo_iff x r).2 (Nat.le_of_not_lt fun hlt => hne ?_))
    simp [State.reg_setRegsFrom_bytesAtIndex, Nat.not_le.2 hlt]
  | storeBcd | storeRegisters =>
    obtain ⟨-, rfl⟩ := State.ranged_next h
    simp at hne
  | _ =>
    cases h
    exact absurd rfl hne

end Sys2Proof.Machine
end

section
/-! SUPPORT. The operations of the agents (spec/60_exceptions.md, spec/70_reset_and_hazards.md): the next states of
each trigger, the timer step and its repetition, and what the host's operations leave. -/

namespace Sys2Proof.Machine

/-! ### The next states of the two triggers -/

/-- The next states of an instruction step: one that the decoded instruction answers, or the state with the log
of the unrecognized word. -/
theorem stepInstruction_next_cases {s t : State} (h : stepInstruction s = .next t) :
    (∃ i, decode s.fetchWord = .ok i ∧ exec i s.clearEvents = .next t) ∨
      t = s.clearEvents.emit (.log .unrecognized s.fetchWord) := by
  obtain ⟨-, hstep⟩ | ⟨-, i, hdecode, hstep⟩ | ⟨-, -, -, hstep⟩ := stepInstruction_cases s
  · cases hstep.symm.trans h
  · exact .inl ⟨i, hdecode, hstep.symm.trans h⟩
  · obtain ⟨-, hfault⟩ | ⟨-, hlog⟩ := unrecognized_cases s.fetchWord s.clearEvents
    · cases hfault.symm.trans (hstep.symm.trans h)
    · cases hlog.symm.trans (hstep.symm.trans h)
      exact .inr rfl

/-- The next states of an instruction trigger: the state with its outputs emptied, while paused, or one that the
instruction step answers (R180). -/
theorem perform_instruction_next_cases {s t : State} (h : perform .instruction s = .next t) :
    t = s.clearEvents ∨ stepInstruction s = .next t := by
  cases hpaused : s.paused
  · exact .inr ((perform_instruction s hpaused).symm.trans h)
  · cases (perform_instruction_paused s hpaused).symm.trans h
    exact .inl rfl

theorem perform_timer (s : State) (h : s.paused = false) : perform .timer s = .next (stepTimers s) := by
  simp [perform, h]

theorem perform_timer_paused (s : State) (h : s.paused = true) : perform .timer s = .next s.clearEvents := by
  simp [perform, h]

/-- The next states of a timer trigger: the state with its outputs emptied, while paused, or that of the timer
step (R180). -/
theorem perform_timer_next_cases {s t : State} (h : perform .timer s = .next t) :
    t = s.clearEvents ∨ t = stepTimers s := by
  cases hpaused : s.paused
  · cases (perform_timer s hpaused).symm.trans h
    exact .inr rfl
  · cases (perform_timer_paused s hpaused).symm.trans h
    exact .inl rfl

/-- Settles O52: an operation begins with its outputs emptied; an instruction adds at most one log, a timer step
at most one tone, and the host's operations add nothing. -/
theorem operationsEmitAtMostOneEvent : Obligations.OperationsEmitAtMostOneEvent := by
  intro op s t h
  cases op with
  | instruction =>
    obtain rfl | hstep := perform_instruction_next_cases h
    · simp
    · obtain ⟨i, -, hexec⟩ | rfl := stepInstruction_next_cases hstep
      · obtain hnone | ⟨cause, -, hone⟩ := exec_next_events_cases hexec
        · simp [hnone]
        · simp [hone]
      · simp
  | timer =>
    obtain rfl | rfl := perform_timer_next_cases h
    · simp
    · rw [stepTimers_eq]
      dsimp only
      split <;> simp
  | load bytes =>
    cases h
    simp [hostLoad, hostReset, State.reset]
  | reset =>
    cases h
    simp [hostReset, State.reset]
  | keydown | keyup | clearDirty | pause | resume =>
    cases h
    simp

/-! ### The instruction step -/

/-- Two bytes that decode with nothing left over are a word that decodes (R42, R60). -/
theorem decode_of_decodeBytes_pair {hi lo : Byte} {i : Instr} {rest : List Byte}
    (h : decodeBytes [hi, lo] = .ok (i, rest)) : decode (wordOfBytes hi lo) = .ok i := by
  unfold decodeBytes at h
  cases hdecode : decode (wordOfBytes hi lo) with
  | error r => simp [hdecode] at h
  | ok j =>
    simp only [hdecode, Except.ok.injEq, Prod.mk.injEq] at h
    rw [h.1]

/-- An instruction step whose fetched word decodes is the decoded instruction (R80 to R82). -/
theorem stepInstruction_of_decode_ok {s : State} {i : Instr} (hpc : s.pc.toNat ≤ 4094)
    (hdecode : decode s.fetchWord = .ok i) : stepInstruction s = exec i s.clearEvents := by
  obtain ⟨hrange, -⟩ | ⟨-, j, hj, hstep⟩ | ⟨-, r, herror, -⟩ := stepInstruction_cases s
  · exact absurd hpc (Nat.not_le.2 hrange)
  · cases hdecode.symm.trans hj
    exact hstep
  · cases hdecode.symm.trans herror

/-- Settles O6: the two bytes at PC make up the fetched word. -/
theorem stepRunsTheDecodedInstruction : Obligations.StepRunsTheDecodedInstruction := by
  intro s i hscript hpaused hpc hbytes
  have hdecode : decode s.fetchWord = .ok i := decode_of_decodeBytes_pair hbytes
  rw [step_eq_stepInstruction hscript hpaused]
  exact stepInstruction_of_decode_ok hpc hdecode

/-- Settles O7: the script decides which operation a step performs. -/
theorem stepTakesTheScriptedOperation : Obligations.StepTakesTheScriptedOperation := by
  intro s op rest hscript
  simp [step, performNext, hscript]

/-- Settles O8: the other two cases of an instruction step are within range. -/
theorem fetchAboveMemoryFaults : Obligations.FetchAboveMemoryFaults := by
  intro s hscript hpaused hpc
  rw [step_eq_stepInstruction hscript hpaused]
  obtain ⟨-, hstep⟩ | ⟨hle, -⟩ | ⟨hle, -⟩ := stepInstruction_cases s
  · exact hstep
  all_goals exact absurd hpc (Nat.not_lt.2 hle)

/-! ### The timer step -/

@[simp] theorem stepTimers_dt (s : State) : (stepTimers s).dt = countDown s.dt := by rw [stepTimers_eq]

@[simp] theorem stepTimers_st (s : State) : (stepTimers s).st = countDown s.st := by rw [stepTimers_eq]

@[simp] theorem stepTimers_events (s : State) :
    (stepTimers s).events = if 0 < s.st.toNat then [.tone] else [] := by
  have hzero : s.st = 0 ↔ ¬ 0 < s.st.toNat := by
    rw [← BitVec.toNat_inj]
    simp
  rw [stepTimers_eq]
  simp only [hzero, ite_not]

/-- Settles O40: both timers count down, the tone is tested before, and nothing else is written. -/
theorem timerStepCountsDown : Obligations.TimerStepCountsDown := by
  intro s hrunning
  refine ⟨stepTimers s, perform_timer s hrunning, ?_, ?_, stepTimers_events s, ?_⟩
  · rw [stepTimers_dt, countDown_toNat]
  · rw [stepTimers_st, countDown_toNat]
  · rw [stepTimers_eq]

/-- Settles O41: by induction on the number of timer steps. -/
theorem timersStopAtZero : Obligations.TimersStopAtZero := by
  intro n
  induction n with
  | zero => exact fun s => ⟨rfl, rfl⟩
  | succ n ih =>
    intro s
    obtain ⟨hdt, hst⟩ := ih (stepTimers s)
    rw [stepTimers_dt, countDown_toNat] at hdt
    rw [stepTimers_st, countDown_toNat] at hst
    simp only [timerSteps]
    omega

/-- Settles O42: by induction on the number of timer steps; each takes 1 from ST and emits one tone, until ST is
0. -/
theorem soundTimerGivesThatManyTones : Obligations.SoundTimerGivesThatManyTones := by
  intro n
  induction n with
  | zero => exact fun s => (Nat.zero_min _).symm
  | succ n ih =>
    intro s
    have hrest := ih (stepTimers s)
    rw [stepTimers_st, countDown_toNat] at hrest
    rw [toneCount, hrest, stepTimers_events]
    split
    · rw [List.count_singleton_self]
      omega
    · rw [List.count_nil]
      omega

/-! ### The host's operations -/

/-- On a blank display every pixel is dark, within the bounds and beyond them. -/
theorem State.pixel_of_blank {s : State} (h : s.disp = Vector.replicate 32 (Vector.replicate 64 false))
    (cx cy : Nat) : s.pixel cx cy = false := by
  by_cases hb : cx < 64 ∧ cy < 32
  · rw [State.pixel_eq s hb.1 hb.2]
    simp [h]
  · exact State.pixel_out s hb

/-- Settles O43: the bytes that reset does not list are those of the font. -/
theorem resetRestoresTheFont : Obligations.ResetRestoresTheFont := by
  intro s
  refine ⟨hostReset s, rfl, fun k => ?_⟩
  rw [readByte_hostReset, Memory.unlisted, dif_pos k.isLt]
  rfl

/-- Settles O44: every item is that of `State.reset`, and above the font an unlisted byte is 0. -/
theorem resetLeavesTheInitialState : Obligations.ResetLeavesTheInitialState := by
  refine ⟨fun s => ⟨hostReset s, rfl, fun a ha => ?_, fun r => ?_, rfl, rfl, fun k => ?_, rfl, rfl, rfl,
    fun k => ?_, fun cx cy => ?_, rfl, rfl, rfl⟩, rfl⟩
  · rw [readByte_hostReset, Memory.unlisted, dif_neg (Nat.not_lt.2 ha)]
  · exact Vector.getElem_replicate _
  · exact Vector.getElem_replicate _
  · exact Vector.getElem_replicate _
  · exact State.pixel_of_blank rfl cx cy

/-- Settles O45: reset, then the stores of at most 3584 bytes, which read back in place and leave every other
byte. -/
theorem loadPlacesTheImage : Obligations.LoadPlacesTheImage := by
  intro bytes s
  have hread : ∀ a, (hostLoad bytes s).readByte a =
      ((hostReset s).storeBytes 512 (bytes.take 3584)).readByte a := fun a => rfl
  refine ⟨hostLoad bytes s, rfl, fun k hk hlen => ?_, fun a ha => ?_, ?_⟩
  · simp [hread, State.readByte_storeBytes, hk, hlen]
  · rw [hread, State.readByte_storeBytes]
    split
    · rw [List.getElem?_eq_none (by rw [List.length_take]; omega), Option.getD_none]
    · rfl
  · rw [hostLoad, State.storeBytes_eq]

/-- A key event changes the bit of its own key. -/
theorem State.setKey_keys_getElem (s : State) (k : KeyCode) (b : Bool) (j : Fin 16) :
    (s.setKey k b).keys[j] = if j.val = k.toNat then b else s.keys[j] := by
  simp [State.setKey, Vector.getElem_set, eq_comm]

/-- Settles O46: each writes one item of the state with its outputs emptied. -/
theorem hostEventsChangeTheirOneBit : Obligations.HostEventsChangeTheirOneBit := by
  intro k s
  exact ⟨⟨_, rfl, State.setKey_keys_getElem _ k true, rfl⟩,
    ⟨_, rfl, State.setKey_keys_getElem _ k false, rfl⟩, rfl⟩

/-- Settles O47: while paused both triggers only empty the outputs. -/
theorem pausedMachineRetainsItsState : Obligations.PausedMachineRetainsItsState := by
  intro s
  exact ⟨fun hpaused => ⟨perform_instruction_paused s hpaused, perform_timer_paused s hpaused⟩, rfl, rfl⟩

end Sys2Proof.Machine
end

section
/-! SUPPORT. The invariant (spec/10_state.md R16, R26; log entry 22): reset meets it, every instruction and every
operation keeps it, and canonical memories are determined by what they read. -/

namespace Sys2Proof.Machine

/-! ### Instructions, operations and steps -/

/-- Every instruction keeps the invariant: a pop takes one from SP, a push is made below 16 only, and the stores
are within the address space. -/
theorem exec_keeps_inv {i : Instr} {s t : State} (hs : s.Inv) (h : exec i s = .next t) : t.Inv := by
  cases i with
  | returnSub =>
    obtain ⟨-, rfl⟩ | ⟨-, rfl⟩ := exec_returnSub_next_cases h
    · exact hs
    · exact ⟨(Nat.sub_le s.sp 1).trans hs.1, hs.2⟩
  | call nnn =>
    obtain ⟨hroom, rfl⟩ | ⟨-, rfl⟩ := exec_call_next_cases h
    · exact ⟨hroom, hs.2⟩
    · exact hs
  | waitForKey x =>
    obtain rfl | ⟨k, rfl⟩ := exec_waitForKey_next_cases h <;> exact hs
  | drawSprite =>
    obtain ⟨-, rfl⟩ := State.ranged_next h
    exact hs
  | loadRegisters =>
    obtain ⟨-, rfl⟩ := State.ranged_next h
    simpa [State.Inv] using hs
  | storeBcd =>
    obtain ⟨hrange, rfl⟩ := State.ranged_next h
    exact State.inv_storeBytes (hrange (Nat.succ_pos _)) hs
  | storeRegisters x =>
    obtain ⟨hrange, rfl⟩ := State.ranged_next h
    have hblock : s.indexed 0 + (s.regsUpTo x).length ≤ 4096 :=
      (s.regsUpTo_length x).symm ▸ hrange (Nat.succ_pos _)
    exact State.inv_storeBytes hblock hs
  | _ =>
    cases h
    exact hs

/-- An instruction step keeps what `exec` keeps: the log of the unrecognized word is no part of it. -/
theorem stepInstruction_keeps_inv {s t : State} (hs : s.Inv) (h : stepInstruction s = .next t) : t.Inv := by
  obtain ⟨i, -, hexec⟩ | rfl := stepInstruction_next_cases h
  · exact exec_keeps_inv (s := s.clearEvents) hs hexec
  · exact hs

/-- An image is placed within the address space: 3584 bytes at most, from 512 on. -/
theorem hostLoad_inv (bytes : List Byte) (s : State) : (hostLoad bytes s).Inv := by
  have hlen : 512 + (bytes.take 3584).length ≤ 4096 := by
    rw [List.length_take]
    omega
  exact State.inv_storeBytes hlen (hostReset_inv s)

/-- Every operation keeps the invariant. -/
theorem perform_keeps_inv {op : Operation} {s t : State} (hs : s.Inv) (h : perform op s = .next t) : t.Inv := by
  cases op with
  | instruction =>
    obtain rfl | hstep := perform_instruction_next_cases h
    · exact hs
    · exact stepInstruction_keeps_inv hs hstep
  | timer =>
    obtain rfl | rfl := perform_timer_next_cases h
    · exact hs
    · rw [stepTimers_eq]
      exact hs
  | reset =>
    cases h
    exact hostReset_inv s
  | load bytes =>
    cases h
    exact hostLoad_inv bytes s
  | keydown | keyup | clearDirty | pause | resume =>
    cases h
    exact hs

/-- Settles O55: a step is one operation on the state with the rest of the script, which the invariant does not
speak of. -/
theorem stepKeepsInv : Obligations.StepKeepsInv := by
  intro s t hs h
  obtain ⟨op, rest, hstep⟩ := step_performs s
  exact perform_keeps_inv (s := { s with script := rest }) hs (hstep.symm.trans h)

/-- Settles O54: SP is 0 and no byte is listed. -/
theorem resetMeetsTheInvariant : Obligations.ResetMeetsTheInvariant :=
  have hreset : ∀ p : Params, { State.reset with params := p }.Inv := fun p =>
    ⟨Nat.zero_le 16, Memory.wf_nil p.font⟩
  ⟨hreset State.reset.params, hreset⟩

/-! ### The parameters -/

/-- No instruction changes the parameters. -/
theorem exec_keeps_params {i : Instr} {s t : State} (h : exec i s = .next t) : t.params = s.params := by
  obtain ⟨-, -, -, -, -, -, -, -, -, hparams, -⟩ := onlyNamedInstructionsWriteAnItem i s t h
  exact hparams

/-- No operation changes the parameters. -/
theorem perform_keeps_params {op : Operation} {s t : State} (h : perform op s = .next t) :
    t.params = s.params := by
  cases op with
  | instruction =>
    obtain rfl | hstep := perform_instruction_next_cases h
    · rfl
    · obtain ⟨i, -, hexec⟩ | rfl := stepInstruction_next_cases hstep
      · exact exec_keeps_params (s := s.clearEvents) hexec
      · rfl
  | timer =>
    obtain rfl | rfl := perform_timer_next_cases h
    · rfl
    · rw [stepTimers_eq]
  | load bytes =>
    cases h
    simp [hostLoad, hostReset]
  | reset | keydown | keyup | clearDirty | pause | resume =>
    cases h
    rfl

/-- Settles O56: reset meets the invariant, and every operation keeps it and the parameters. -/
theorem reachableStatesMeetInv : Obligations.ReachableStatesMeetInv := by
  intro p s hreach
  induction hreach with
  | reset => exact ⟨resetMeetsTheInvariant.2 p, rfl⟩
  | operation op _ hop ih => exact ⟨perform_keeps_inv ih.1 hop, (perform_keeps_params hop).trans ih.2⟩

/-! ### Canonical memories -/

/-- Below the first address a canonical memory may list, every address reads as unlisted. -/
theorem Memory.read_of_lt {font : Vector Byte 80} {m : Memory} {lo a : Nat} (ha : a < lo)
    (hw : Memory.wfFrom font lo m = true) : Memory.read font m a = Memory.unlisted font a := by
  induction m generalizing lo with
  | nil => rfl
  | cons c m ih =>
    obtain ⟨hlo, -, -, hm⟩ := (Memory.wfFrom_cons_iff font lo c m).1 hw
    rw [Memory.read, if_neg (by omega)]
    exact ih (by omega) hm

/-- The first address a canonical memory lists does not read as unlisted. -/
theorem Memory.read_head_ne_unlisted {font : Vector Byte 80} {c : Host.Cell} {m : Memory} {lo : Nat}
    (hw : Memory.wfFrom font lo (c :: m) = true) :
    Memory.read font (c :: m) c.1 ≠ Memory.unlisted font c.1 := by
  obtain ⟨-, -, hv, -⟩ := (Memory.wfFrom_cons_iff font lo c m).1 hw
  rwa [Memory.read, if_pos rfl]

/-- Of two canonical memories that read equal, the first lists no address before the first address of the
other. -/
theorem Memory.head_le_of_read_eq {font : Vector Byte 80} {c c' : Host.Cell} {m m' : Memory} {lo : Nat}
    (hw : Memory.wfFrom font lo (c :: m) = true) (hw' : Memory.wfFrom font lo (c' :: m') = true)
    (hread : ∀ a, Memory.read font (c :: m) a = Memory.read font (c' :: m') a) : c'.1 ≤ c.1 := by
  by_contra hlt
  obtain ⟨-, hc', hv', hm'⟩ := (Memory.wfFrom_cons_iff font lo c' m').1 hw'
  have hfrom : Memory.wfFrom font c'.1 (c' :: m') = true :=
    (Memory.wfFrom_cons_iff font c'.1 c' m').2 ⟨Nat.le_refl _, hc', hv', hm'⟩
  exact Memory.read_head_ne_unlisted hw
    ((hread c.1).trans (Memory.read_of_lt (Nat.lt_of_not_le hlt) hfrom))

/-- Canonical memories that read equal list the same first cell, and their rests read equal. -/
theorem Memory.eq_of_read_eq {font : Vector Byte 80} {m m' : Memory} {lo : Nat}
    (hw : Memory.wfFrom font lo m = true) (hw' : Memory.wfFrom font lo m' = true)
    (hread : ∀ a, Memory.read font m a = Memory.read font m' a) : m = m' := by
  induction m generalizing m' lo with
  | nil =>
    cases m' with
    | nil => rfl
    | cons c' m' => exact absurd (hread c'.1).symm (Memory.read_head_ne_unlisted hw')
  | cons c m ih =>
    cases m' with
    | nil => exact absurd (hread c.1) (Memory.read_head_ne_unlisted hw)
    | cons c' m' =>
      have haddr : c'.1 = c.1 := Nat.le_antisymm (Memory.head_le_of_read_eq hw hw' hread)
        (Memory.head_le_of_read_eq hw' hw fun a => (hread a).symm)
      have hbyte : c.2 = c'.2 := by simpa [Memory.read, haddr] using hread c.1
      obtain ⟨-, -, -, hm⟩ := (Memory.wfFrom_cons_iff font lo c m).1 hw
      obtain ⟨-, -, -, hm'⟩ := (Memory.wfFrom_cons_iff font lo c' m').1 hw'
      rw [haddr] at hm'
      have hrest : ∀ a, Memory.read font m a = Memory.read font m' a := by
        intro a
        by_cases ha : c.1 = a
        · subst ha
          rw [Memory.read_of_lt (Nat.lt_succ_self _) hm, Memory.read_of_lt (Nat.lt_succ_self _) hm']
        · simpa [Memory.read, haddr, ha] using hread a
      rw [Prod.ext haddr.symm hbyte, ih hm hm' hrest]

/-- Settles O57: both memories are canonical from address 0 on. -/
theorem canonicalMemoriesAreEqualWhenTheyReadEqual :
    Obligations.CanonicalMemoriesAreEqualWhenTheyReadEqual := by
  intro font m m' hw hw' hread
  exact Memory.eq_of_read_eq hw hw' hread

end Sys2Proof.Machine
end

section
/-! SUPPORT. The call stack (spec/41_control_flow.md R90, R91, R93, R161, R162; D4): return and call, one after the
other and nested, and the warning of system-call. -/

namespace Sys2Proof

/-- STACK_UNDERFLOW is the cause of return alone (R162). -/
theorem Instr.eq_returnSub_of_softCause {i : Instr} (h : i.softCause = some .stackUnderflow) : i = .returnSub := by
  cases i with
  | returnSub => rfl
  | _ => cases h

end Sys2Proof

namespace Sys2Proof.Machine

/-- A push keeps every frame that names the stack. -/
theorem Frame.push {T : Touch} {s t : State} (h : Frame T s t) (hT : T.stack = true) (w : Word) :
    Frame T s (t.push w) :=
  { h with stack := fun hfalse => absurd (hT.symm.trans hfalse) Bool.noConfusion }

/-- A pop keeps every frame that names the stack. -/
theorem Frame.pop {T : Touch} {s t : State} (h : Frame T s t) (hT : T.stack = true) : Frame T s t.pop :=
  { h with stack := fun hfalse => absurd (hT.symm.trans hfalse) Bool.noConfusion }

/-- Return from a stack that is not empty pops into PC (R90). -/
theorem exec_returnSub_of_pos {s : State} (h : 0 < s.sp) : exec .returnSub s = .next (s.pop.setPc s.top) := by
  obtain ⟨hempty, -⟩ | ⟨-, hexec⟩ := exec_returnSub_cases s
  · exact absurd hempty h.ne'
  · exact hexec

/-- Return from an empty stack is the soft fault (R162). -/
theorem exec_returnSub_of_empty {s : State} (h : s.sp = 0) :
    exec .returnSub s = softFault .stackUnderflow (encode .returnSub) s := by
  obtain ⟨-, hexec⟩ | ⟨hpos, -⟩ := exec_returnSub_cases s
  · exact hexec
  · exact absurd h hpos.ne'

/-- Call with a free entry pushes and goes to the literal (R93). -/
theorem exec_call_of_lt {s : State} (nnn : Literal12) (h : s.sp < 16) :
    exec (.call nnn) s = .next ((s.push (s.pc + 2)).setPc (literalAddress nnn)) := by
  obtain ⟨-, hexec⟩ | ⟨hfull, -⟩ := exec_call_cases nnn s
  · exact hexec
  · exact absurd h (Nat.not_lt.2 hfull)

/-- The entry a pop takes, while SP counts entries of the stack (D4). -/
theorem State.stack_getElem?_top {s : State} (h0 : 0 < s.sp) (h16 : s.sp ≤ 16) :
    s.stack[s.sp - 1]? = some s.top := by
  have hlt : s.sp - 1 < 16 := by omega
  simp [State.top, hlt]

/-- A push writes the entry at SP. -/
theorem State.push_stack_getElem?_self {s : State} (w : Word) (h : s.sp < 16) :
    (s.push w).stack[s.sp]? = some w := by
  simp [h]

/-- A push leaves every other entry. -/
theorem State.push_stack_getElem?_of_ne (s : State) (w : Word) {k : Nat} (h : k ≠ s.sp) :
    (s.push w).stack[k]? = s.stack[k]? := by
  simp [Vector.getElem?_setIfInBounds_ne h.symm]

/-- Settles O11: the two cases of return; the word of the log is 00EE. -/
theorem returnPopsThePc : Obligations.ReturnPopsThePc := by
  intro s
  refine ⟨fun h0 h16 => ?_, fun hempty => completesSoftly_of_exec_eq_softFault (exec_returnSub_of_empty hempty)⟩
  exact ⟨_, exec_returnSub_of_pos h0, State.stack_getElem?_top h0 h16, rfl, rfl,
    ((Frame.refl _ s).pop rfl).setPc _⟩

/-- Settles O14: the soft fault is the case SP = 0, and its cause is that of return alone. -/
theorem returnOnEmptyStackChangesNothing : Obligations.ReturnOnEmptyStackChangesNothing := by
  constructor
  · exact fun s hempty => completesSoftly_of_exec_eq_softFault (exec_returnSub_of_empty hempty)
  · intro i s t w hs h hlog
    exact Instr.eq_returnSub_of_softCause (softCause_of_log_mem_events hs h hlog).1

/-- Settles O12: with a free entry a call is a push and a jump. -/
theorem callPushesTheReturnAddress : Obligations.CallPushesTheReturnAddress := by
  intro nnn s hsp
  exact ⟨_, exec_call_of_lt nnn hsp, State.push_stack_getElem?_self _ hsp,
    fun k hk => State.push_stack_getElem?_of_ne s _ hk, rfl, literalAddress_toNat nnn,
    ((Frame.refl _ s).push rfl _).setPc _⟩

/-- Settles O15: the pop takes the entry that the push wrote, and neither touches another. -/
theorem returnUndoesCall : Obligations.ReturnUndoesCall := by
  intro nnn s t hsp h
  cases (exec_call_of_lt nnn hsp).symm.trans h
  have hreturn := exec_returnSub_of_pos (s := (s.push (s.pc + 2)).setPc (literalAddress nnn)) (Nat.succ_pos _)
  exact ⟨_, hreturn, State.top_push s _ hsp, State.pop_push_sp s (s.pc + 2),
    fun k hk => State.push_stack_getElem?_of_ne s _ hk⟩

/-- Settles O16: by induction on the targets; each call takes one free entry and leaves those below it. -/
theorem nestedCallsSucceedUpToSixteen : Obligations.NestedCallsSucceedUpToSixteen := by
  intro targets
  induction targets with
  | nil => exact fun s _ => ⟨s, rfl, rfl, rfl, fun _ _ => rfl⟩
  | cons nnn targets ih =>
    intro s hroom
    rw [List.length_cons] at hroom
    have hcall := exec_call_of_lt nnn (show s.sp < 16 by omega)
    obtain ⟨t, hrun, hsp, hevents, hbelow⟩ :=
      ih ((s.push (s.pc + 2)).setPc (literalAddress nnn)) (by simp; omega)
    refine ⟨t, by rw [callAll, hcall]; exact hrun, ?_, hevents, fun k hk => ?_⟩
    · rw [hsp, List.length_cons]
      simp
      omega
    · exact (hbelow k (Nat.lt_succ_of_lt hk)).trans (State.push_stack_getElem?_of_ne s _ hk.ne)

/-- Settles O17: the word is the literal with the major opcode 0; the instruction is a soft fault on every path. -/
theorem systemCallOnlyWarns : Obligations.SystemCallOnlyWarns := by
  intro nnn s
  refine ⟨encodeA 0x0 nnn, ?_, decode_encodeA_systemCall, completesSoftly_of_exec_eq_softFault rfl⟩
  rw [encodeA_toNat]
  simp

end Sys2Proof.Machine
end

section
/-! SUPPORT. The skips on two registers (spec/42_skip.md R102, R103). -/

namespace Sys2Proof.Machine

@[simp] theorem exec_skipEqualRegisters (x y : RegIdx) (s : State) :
    exec (.skipEqualRegisters x y) s = .next (s.skipIf (s.reg x == s.reg y)) := rfl

@[simp] theorem exec_skipNotEqualRegisters (x y : RegIdx) (s : State) :
    exec (.skipNotEqualRegisters x y) s = .next (s.skipIf (s.reg x != s.reg y)) := rfl

/-- Settles O21: both apply the skip law, and the decoder takes no low nibble but 0. -/
theorem skipsOnRegisters : Obligations.SkipsOnRegisters := by
  intro x y s
  exact ⟨decode_encodeR_skipEqualRegisters x y 0, decode_encodeR_skipNotEqualRegisters x y 0,
    fun n hn => ⟨(decode_encodeR_skipEqualRegisters x y n).trans (if_neg hn),
      (decode_encodeR_skipNotEqualRegisters x y n).trans (if_neg hn)⟩,
    completesSkip_of_exec_eq_skipIf (exec_skipEqualRegisters x y s) beq_iff_eq,
    completesSkip_of_exec_eq_skipIf (exec_skipNotEqualRegisters x y s) bne_iff_ne⟩

end Sys2Proof.Machine
end

section
/-! SUPPORT. The quiescent states (spec/70_reset_and_hazards.md R205): which instructions can answer the very state
they began in. -/

namespace Sys2Proof.Machine

/-- A write of PC answers the same state exactly when it writes the value that PC has. -/
theorem State.setPc_eq_self_iff (s : State) (w : Word) : s.setPc w = s ↔ w.toNat = s.pc.toNat := by
  rw [BitVec.toNat_inj]
  exact ⟨fun h => congrArg State.pc h, fun h => h ▸ rfl⟩

/-- No skip answers the state it began in: both its ends move PC. -/
theorem State.skipIf_ne_self (c : Bool) (s : State) : State.skipIf c s ≠ s := by
  intro h
  have hpc : s.pc + (if c then 4 else 2) = s.pc := congrArg State.pc h
  cases c <;> simp at hpc

/-- An emitted event is one more. -/
theorem State.emit_ne_self (s : State) (e : Event) : s.emit e ≠ s := by
  intro h
  have hevents : s.events ++ [e] = s.events := congrArg State.events h
  simp at hevents

/-- No instruction but a jump or wait-for-key answers the state it began in: it moves PC, moves SP or emits an
event. -/
theorem exec_ne_self {i : Instr} {s : State} (hjump : ∀ nnn, i ≠ .jump nnn)
    (hoffset : ∀ nnn, i ≠ .jumpWithOffset nnn) (hwait : ∀ x, i ≠ .waitForKey x) : exec i s ≠ .next s := by
  intro h
  cases i with
  | jump nnn => exact hjump nnn rfl
  | jumpWithOffset nnn => exact hoffset nnn rfl
  | waitForKey x => exact hwait x rfl
  | returnSub =>
    obtain ⟨-, hself⟩ | ⟨hpos, hself⟩ := exec_returnSub_next_cases h
    · exact s.emit_ne_self _ hself.symm
    · have hsp : s.sp = s.sp - 1 := congrArg State.sp hself
      omega
  | systemCall => exact s.emit_ne_self _ (Host.Outcome.next.inj h)
  | call nnn =>
    obtain ⟨-, hself⟩ | ⟨-, hself⟩ := exec_call_next_cases h
    · have hsp : s.sp = s.sp + 1 := congrArg State.sp hself
      omega
    · exact s.emit_ne_self _ hself.symm
  | skipEqualImmediate | skipNotEqualImmediate | skipEqualRegisters | skipNotEqualRegisters
  | skipIfKeyPressed | skipIfKeyNotPressed => exact s.skipIf_ne_self _ (Host.Outcome.next.inj h)
  | _ =>
    have hpc : s.pc = s.pc + 2 := otherInstructionsAdvanceByTwo _ s s rfl h
    simp at hpc

/-- A jump answers the state it began in when its target is its own address. -/
theorem exec_jump_eq_self_iff (nnn : Literal12) (s : State) :
    exec (.jump nnn) s = .next s ↔ nnn.toNat = s.pc.toNat := by
  rw [exec_jump, Host.Outcome.next.injEq, State.setPc_eq_self_iff, literalAddress_toNat]

theorem exec_jumpWithOffset_eq_self_iff (nnn : Literal12) (s : State) :
    exec (.jumpWithOffset nnn) s = .next s ↔ nnn.toNat + (s.reg 0).toNat = s.pc.toNat := by
  rw [exec_jumpWithOffset, Host.Outcome.next.injEq, State.setPc_eq_self_iff, literalAddress_add_wideByte_toNat]

/-- wait-for-key answers the state it began in when every key is released; else it counts a draw. -/
theorem exec_waitForKey_eq_self_iff (x : RegIdx) (s : State) :
    exec (.waitForKey x) s = .next s ↔ ∀ k : Fin 16, s.keys[k] = false := by
  obtain ⟨hreleased, hexec⟩ | ⟨k, hkey, hexec⟩ := exec_waitForKey_cases x s
  · exact iff_of_true hexec hreleased
  · refine iff_of_false (fun h => ?_) fun hreleased => Bool.noConfusion (hkey.symm.trans (hreleased k))
    have hdraws : s.draws + 1 = s.draws := congrArg State.draws (Host.Outcome.next.inj (hexec.symm.trans h))
    omega

/-- The instructions that answer the very state they began in: the two jumps to their own address, and
wait-for-key with every key released. -/
theorem exec_eq_self_iff (i : Instr) (s : State) :
    exec i s = .next s ↔
      (∃ nnn, i = .jump nnn ∧ nnn.toNat = s.pc.toNat) ∨
      (∃ nnn, i = .jumpWithOffset nnn ∧ nnn.toNat + (s.reg 0).toNat = s.pc.toNat) ∨
      (∃ x, i = .waitForKey x ∧ ∀ k : Fin 16, s.keys[k] = false) := by
  constructor
  · intro h
    cases i with
    | jump nnn => exact .inl ⟨nnn, rfl, (exec_jump_eq_self_iff nnn s).1 h⟩
    | jumpWithOffset nnn => exact .inr (.inl ⟨nnn, rfl, (exec_jumpWithOffset_eq_self_iff nnn s).1 h⟩)
    | waitForKey x => exact .inr (.inr ⟨x, rfl, (exec_waitForKey_eq_self_iff x s).1 h⟩)
    | _ => exact absurd h (exec_ne_self (by simp) (by simp) (by simp))
  · rintro (⟨nnn, rfl, htarget⟩ | ⟨nnn, rfl, htarget⟩ | ⟨x, rfl, hreleased⟩)
    · exact (exec_jump_eq_self_iff nnn s).2 htarget
    · exact (exec_jumpWithOffset_eq_self_iff nnn s).2 htarget
    · exact (exec_waitForKey_eq_self_iff x s).2 hreleased

/-- Settles O53: a quiescent state's word decodes, since an unrecognized one is logged, and to an instruction that
answers the state it began in. -/
theorem quiescentStatesAreTheSelfJumps : Obligations.QuiescentStatesAreTheSelfJumps := by
  intro s hpc
  cases hdecode : decode s.fetchWord with
  | error r =>
    have hlogged : ¬ Quiescent s := by
      intro hquiescent
      obtain ⟨i, hok, -⟩ | hlog := stepInstruction_next_cases hquiescent
      · cases hdecode.symm.trans hok
      · exact s.clearEvents.emit_ne_self _ hlog.symm
    simpa using hlogged
  | ok i =>
    have hself := exec_eq_self_iff i s.clearEvents
    rw [Quiescent, stepInstruction_of_decode_ok hpc hdecode]
    simpa using hself

end Sys2Proof.Machine
end

section
/-! SUPPORT. The flag-writing arithmetic (spec/43_alu.md R117 to R121, R123) and the random draw (R122): results and
flags as numbers. -/

namespace Sys2Proof.Machine

@[simp] theorem exec_addRegisters (x y : RegIdx) (s : State) : exec (.addRegisters x y) s =
    .next (s.flagThenResult x (carryFlag (s.reg x) (s.reg y)) (s.reg x + s.reg y)) := rfl

@[simp] theorem exec_subRegisters (x y : RegIdx) (s : State) : exec (.subRegisters x y) s =
    .next (s.flagThenResult x (greaterFlag (s.reg x) (s.reg y)) (s.reg x - s.reg y)) := rfl

@[simp] theorem exec_shiftRight (x y : RegIdx) (s : State) : exec (.shiftRight x y) s =
    .next (s.flagThenResult x (lowBitFlag (s.reg x)) (s.reg x >>> 1)) := rfl

@[simp] theorem exec_subReverse (x y : RegIdx) (s : State) : exec (.subReverse x y) s =
    .next (s.flagThenResult x (greaterFlag (s.reg y) (s.reg x)) (s.reg y - s.reg x)) := rfl

@[simp] theorem exec_shiftLeft (x y : RegIdx) (s : State) : exec (.shiftLeft x y) s =
    .next (s.flagThenResult x (highBitFlag (s.reg x)) (s.reg x <<< 1)) := rfl

@[simp] theorem exec_randomAnd (x : RegIdx) (nn : Byte) (s : State) :
    exec (.randomAnd x nn) s = .next (s.setReg x (s.randomByte &&& nn)).countDraw.advance := rfl

/-- The flag and then the result keep every frame that names VF and the destination. -/
theorem Frame.flagThenResult {T : Touch} {s t : State} (h : Frame T s t) {x : RegIdx} (hx : x ∈ T.regs)
    (h15 : flagReg ∈ T.regs) (f b : Byte) : Frame T s (t.flagThenResult x f b) :=
  ((h.setReg h15 f).setReg hx b).advance

/-- An instruction that writes the flag and then the result completes with the result in V[x], and with the flag in
VF unless that is V[x] (R123). -/
theorem completesFlagged_of_exec_eq_flagThenResult {i : Instr} {x : RegIdx} {s : State} {f b : Byte}
    {result flag : Nat} (hexec : exec i s = .next (s.flagThenResult x f b)) (hresult : b.toNat = result)
    (hflag : f.toNat = flag) : CompletesFlagged i x s result flag := by
  refine ⟨_, hexec, ?_, fun hx => ?_, rfl, (Frame.refl _ s).flagThenResult (by simp) (by simp) f b⟩
  · rw [State.reg_flagThenResult, if_pos rfl, hresult]
  · rw [State.reg_flagThenResult, if_neg hx.symm, if_pos rfl, hflag]

/-! ### Results and flags as numbers -/

/-- The carry test as the spec writes it, `b > 255 - a`, is that the sum is above 255 (R117). -/
theorem carryFlag_toNat_eq (a b : Byte) : (carryFlag a b).toNat = if a.toNat + b.toNat > 255 then 1 else 0 := by
  have hiff : b.toNat > 255 - a.toNat ↔ a.toNat + b.toNat > 255 := by omega
  simp only [carryFlag_toNat, hiff]

theorem byte_sub_toNat (a b : Byte) : (a - b).toNat = (256 + a.toNat - b.toNat) % 256 := by
  rw [BitVec.toNat_sub]
  omega

theorem byte_shiftRight_one_toNat (a : Byte) : (a >>> 1).toNat = a.toNat / 2 := by
  simp [Nat.shiftRight_eq_div_pow]

theorem byte_shiftLeft_one_toNat (a : Byte) : (a <<< 1).toNat = a.toNat * 2 % 256 := by
  simp [Nat.shiftLeft_eq]

/-- The bit that a shift to the right loses is the remainder by 2 (R119). -/
theorem lowBitFlag_toNat (a : Byte) : (lowBitFlag a).toNat = a.toNat % 2 := by
  rw [lowBitFlag, flagByte_toNat, BitVec.getLsbD, Nat.testBit_zero]
  obtain h | h := Nat.mod_two_eq_zero_or_one a.toNat <;> simp [h]

/-- The bit that a shift to the left loses is the quotient by 128 (R121). -/
theorem highBitFlag_toNat (a : Byte) : (highBitFlag a).toNat = a.toNat / 128 := by
  have hbit : a.getLsbD 7 = decide (128 ≤ a.toNat) :=
    (BitVec.msb_eq_getLsbD_last a).symm.trans (BitVec.msb_eq_decide a)
  rw [highBitFlag, flagByte_toNat, hbit]
  simp only [decide_eq_true_eq]
  split <;> omega

/-! ### The five instructions, for every X and Y -/

variable (x y : RegIdx) (s : State)

theorem completesFlagged_addRegisters : CompletesFlagged (.addRegisters x y) x s
    (((s.reg x).toNat + (s.reg y).toNat) % 256) (if (s.reg x).toNat + (s.reg y).toNat > 255 then 1 else 0) :=
  completesFlagged_of_exec_eq_flagThenResult (exec_addRegisters x y s) (BitVec.toNat_add _ _)
    (carryFlag_toNat_eq _ _)

theorem completesFlagged_subRegisters : CompletesFlagged (.subRegisters x y) x s
    ((256 + (s.reg x).toNat - (s.reg y).toNat) % 256) (if (s.reg x).toNat > (s.reg y).toNat then 1 else 0) :=
  completesFlagged_of_exec_eq_flagThenResult (exec_subRegisters x y s) (byte_sub_toNat _ _)
    (greaterFlag_toNat _ _)

theorem completesFlagged_subReverse : CompletesFlagged (.subReverse x y) x s
    ((256 + (s.reg y).toNat - (s.reg x).toNat) % 256) (if (s.reg y).toNat > (s.reg x).toNat then 1 else 0) :=
  completesFlagged_of_exec_eq_flagThenResult (exec_subReverse x y s) (byte_sub_toNat _ _)
    (greaterFlag_toNat _ _)

theorem completesFlagged_shiftRight : CompletesFlagged (.shiftRight x y) x s
    ((s.reg x).toNat / 2) ((s.reg x).toNat % 2) :=
  completesFlagged_of_exec_eq_flagThenResult (exec_shiftRight x y s) (byte_shiftRight_one_toNat _)
    (lowBitFlag_toNat _)

theorem completesFlagged_shiftLeft : CompletesFlagged (.shiftLeft x y) x s
    ((s.reg x).toNat * 2 % 256) ((s.reg x).toNat / 128) :=
  completesFlagged_of_exec_eq_flagThenResult (exec_shiftLeft x y s) (byte_shiftLeft_one_toNat _)
    (highBitFlag_toNat _)

end Sys2Proof.Machine

namespace Sys2Proof.Machine

/-- Settles O25: the flag written is the carry test as the spec writes it. -/
theorem addRegistersSetsTheCarry : Obligations.AddRegistersSetsTheCarry := by
  intro x y s _ _
  exact completesFlagged_of_exec_eq_flagThenResult (exec_addRegisters x y s) (BitVec.toNat_add _ _)
    (carryFlag_toNat _ _)

/-- Settles O26: both subtractions complete so for all X and Y. -/
theorem subtractionsSetTheStrictComparison : Obligations.SubtractionsSetTheStrictComparison := by
  intro x y s _ _
  exact ⟨completesFlagged_subRegisters x y s, completesFlagged_subReverse x y s⟩

/-- Settles O27: both shifts complete so for all X and Y. -/
theorem shiftsMoveTheLostBitToTheFlag : Obligations.ShiftsMoveTheLostBitToTheFlag := by
  intro x y s _
  exact ⟨completesFlagged_shiftRight x y s, completesFlagged_shiftLeft x y s⟩

/-- Settles O28: flag and result are computed from the state before either is written, so register 15 is no
special case as an operand, and as X it keeps the result, which is written last. -/
theorem flagRegisterAsOperand : Obligations.FlagRegisterAsOperand := by
  intro x y s _
  exact ⟨completesFlagged_addRegisters x y s, completesFlagged_subRegisters x y s,
    completesFlagged_subReverse x y s, completesFlagged_shiftRight x y s, completesFlagged_shiftLeft x y s⟩

/-- Settles O29: one register write of the masked draw, and one more draw counted. -/
theorem randomAndMasksTheDraw : Obligations.RandomAndMasksTheDraw := by
  intro x nn s
  refine ⟨decode_encode (i := .randomAnd x nn) rfl, _, exec_randomAnd x nn s, fun k => ?_, rfl, rfl,
    (((Frame.refl _ s).setReg (List.mem_singleton_self x) _).countDraw rfl).advance⟩
  have hreg : (s.setReg x (s.randomByte &&& nn)).countDraw.advance.reg x = s.randomByte &&& nn :=
    State.reg_setReg_self s x _
  rw [hreg]
  exact BitVec.getLsbD_and

end Sys2Proof.Machine
end

section
/-! SUPPORT. Blocks of memory at I (spec/44_index_memory.md R133 to R135; spec/20_memory.md R47, R53): what the
stores and the load of a block leave, byte by byte and register by register. -/

namespace Sys2Proof.Machine

theorem exec_storeBcd (x : RegIdx) (s : State) : exec (.storeBcd x) s =
    s.ranged (encode (.storeBcd x)) 3 (s.storeBytes (s.indexed 0) (bcdDigits (s.reg x))).advance := rfl

theorem exec_storeRegisters (x : RegIdx) (s : State) : exec (.storeRegisters x) s =
    s.ranged (encode (.storeRegisters x)) (x.toNat + 1) (s.storeBytes (s.indexed 0) (s.regsUpTo x)).advance := rfl

theorem exec_loadRegisters (x : RegIdx) (s : State) : exec (.loadRegisters x) s =
    s.ranged (encode (.loadRegisters x)) (x.toNat + 1)
      (s.setRegsFrom 0 (s.bytesAtIndex (x.toNat + 1))).advance := rfl

/-- Stores at addresses that the frame names keep the frame. -/
theorem Frame.storeBytes {T : Touch} {s t : State} (h : Frame T s t) {a : Nat} {bs : List Byte}
    (hmem : ∀ k, k < bs.length → a + k ∈ T.mem) : Frame T s (t.storeBytes a bs) := by
  have hother : ∀ p, p ∉ T.mem → (t.storeBytes a bs).readByte p = s.readByte p := by
    intro p hp
    rw [State.readByte_storeBytes, ← h.mem p hp]
    split
    · have hout : bs.length ≤ p - a := by
        by_contra hin
        exact hp (by simpa [show a + (p - a) = p by omega] using hmem (p - a) (by omega))
      rw [List.getElem?_eq_none hout, Option.getD_none]
    · rfl
  rw [State.storeBytes_eq] at hother ⊢
  exact { h with mem := hother }

/-- A load of registers that the frame names keeps the frame. -/
theorem Frame.setRegsFrom {T : Touch} {s t : State} (h : Frame T s t) {k : Nat} {bs : List Byte}
    (hother : ∀ r, r ∉ T.regs → (t.setRegsFrom k bs).reg r = t.reg r) : Frame T s (t.setRegsFrom k bs) := by
  have hregs : ∀ r, r ∉ T.regs → (t.setRegsFrom k bs).reg r = s.reg r := fun r hr =>
    (hother r hr).trans (h.regs r hr)
  rw [State.setRegsFrom_eq] at hregs ⊢
  exact { h with regs := hregs }

/-- Stores at addresses `p` and up read back. -/
theorem State.readByte_storeBytes_of_lt (s : State) (p : Nat) {bs : List Byte} {k : Nat} (hk : k < bs.length) :
    (s.storeBytes p bs).readByte (p + k) = bs[k] := by
  simp [State.readByte_storeBytes, hk]

/-! ### store-bcd -/

/-- Settles O31: within range three bytes are stored from I on, and they are the digits. -/
theorem storeBcdWritesThreeDigits : Obligations.StoreBcdWritesThreeDigits := by
  intro x s
  refine ⟨fun hin => ?_, fun hout => ?_⟩
  · refine ⟨_, (exec_storeBcd x s).trans (State.ranged_ok _ _ fun _ => by omega), ?_, ?_, ?_, ?_, ?_⟩
    · simp [State.indexed, State.readByte_storeBytes, bcdDigits]
    · simp [State.indexed, State.readByte_storeBytes, bcdDigits]
    · simp [State.indexed, State.readByte_storeBytes, bcdDigits]
    · simp
    · refine ((Frame.refl _ s).storeBytes fun k hk => ?_).advance
      have hk : k < 3 := hk
      interval_cases k <;> simp [State.indexed]
  · exact (exec_storeBcd x s).trans (State.ranged_fault _ _ (by omega) (by omega))

/-! ### store-registers and load-registers -/

/-- Within range store-registers answers the state with the block stored. -/
theorem exec_storeRegisters_of_le {x : RegIdx} {s : State} (h : s.i.toNat + x.toNat ≤ 4095) :
    exec (.storeRegisters x) s = .next (s.storeBytes (s.indexed 0) (s.regsUpTo x)).advance :=
  (exec_storeRegisters x s).trans (State.ranged_ok _ _ fun _ => by omega)

/-- Within range load-registers answers the state with the block loaded. -/
theorem exec_loadRegisters_of_le {x : RegIdx} {s : State} (h : s.i.toNat + x.toNat ≤ 4095) :
    exec (.loadRegisters x) s = .next (s.setRegsFrom 0 (s.bytesAtIndex (x.toNat + 1))).advance :=
  (exec_loadRegisters x s).trans (State.ranged_ok _ _ fun _ => by omega)

/-- A stored block holds V[r] at I + r. -/
theorem State.readByte_storeBytes_regsUpTo (s : State) {x r : RegIdx} (hr : r.toNat ≤ x.toNat) :
    (s.storeBytes (s.indexed 0) (s.regsUpTo x)).readByte (s.i.toNat + r.toNat) = s.reg r := by
  have hlen : r.toNat < (s.regsUpTo x).length := by
    rw [State.regsUpTo_length]
    omega
  refine (State.readByte_storeBytes_of_lt s (s.indexed 0) hlen).trans ?_
  simp

/-- Settles O32: within range the block of registers is stored from I on. -/
theorem storeRegistersWritesTheBlock : Obligations.StoreRegistersWritesTheBlock := by
  intro x s
  refine ⟨fun hin => ?_, fun hout => ?_⟩
  · refine ⟨_, exec_storeRegisters_of_le hin, fun r hr => State.readByte_storeBytes_regsUpTo s hr, by simp,
      ((Frame.refl _ s).storeBytes fun k hk => ?_).advance⟩
    rw [State.regsUpTo_length] at hk
    exact List.mem_map.2 ⟨k, List.mem_range.2 hk, rfl⟩
  · exact (exec_storeRegisters x s).trans (State.ranged_fault _ _ (by omega) (by omega))

/-- Settles O33: within range the registers up to V[X] take the block at I, and no register above does. -/
theorem loadRegistersReadsTheBlock : Obligations.LoadRegistersReadsTheBlock := by
  intro x s
  refine ⟨fun hin => ?_, fun hout => ?_⟩
  · refine ⟨_, exec_loadRegisters_of_le hin, fun r hr => ?_, by simp,
      ((Frame.refl _ s).setRegsFrom fun r hr => ?_).advance⟩
    · exact (s.reg_setRegsFrom_bytesAtIndex x r).trans (if_pos hr)
    · exact (s.reg_setRegsFrom_bytesAtIndex x r).trans (if_neg (mt (mem_registers_upTo_iff x r).2 hr))
  · exact (exec_loadRegisters x s).trans (State.ranged_fault _ _ (by omega) (by omega))

/-- Settles O34: a store that completes was within range, so the load at the same I completes; it reads the bytes
stored. -/
theorem loadAfterStoreRestoresTheBlock : Obligations.LoadAfterStoreRestoresTheBlock := by
  intro x between s t h
  obtain ⟨hrange, rfl⟩ := State.ranged_next ((exec_storeRegisters x s).symm.trans h)
  have hin : s.i.toNat + x.toNat ≤ 4095 := by
    have := hrange (Nat.succ_pos _)
    omega
  obtain ⟨hload, -⟩ := loadRegistersReadsTheBlock x
    { (s.storeBytes (s.indexed 0) (s.regsUpTo x)).advance with v := between }
  obtain ⟨u, hexec, hregs, -⟩ := hload (by simpa using hin)
  refine ⟨u, hexec, fun r hr => (hregs r hr).trans ?_⟩
  have hi : (s.storeBytes (s.indexed 0) (s.regsUpTo x)).advance.i = s.i := by simp
  rw [hi]
  exact State.readByte_storeBytes_regsUpTo s hr

/-- Settles O10: the first two bytes of the block stored at PC + 2 are the next word fetched. -/
theorem storeIsSeenByTheNextFetch : Obligations.StoreIsSeenByTheNextFetch := by
  intro s x hscript hpaused hpc hbytes hx hi hin
  have hstep := stepRunsTheDecodedInstruction s _ hscript hpaused hpc hbytes
  obtain ⟨hstore, -⟩ := storeRegistersWritesTheBlock x { s with events := [] }
  obtain ⟨t, hexec, hread, htpc, -⟩ := hstore hin
  have hnext : t.pc.toNat = s.i.toNat := by
    rw [htpc, hi, BitVec.toNat_add]
    exact Nat.mod_eq_of_lt (by simp; omega)
  have hfirst : t.readByte t.pc.toNat = s.reg 0 := hnext ▸ hread 0 (Nat.zero_le _)
  have hsecond : t.readByte (t.pc.toNat + 1) = s.reg 1 := hnext ▸ hread 1 hx
  exact ⟨t, hstep.trans hexec, htpc, by rw [State.fetchWord, hfirst, hsecond]⟩

end Sys2Proof.Machine
end

section
/-! SUPPORT. The display instructions (spec/45_display.md R140 to R143): clear-screen, one draw of a sprite pixel by
pixel, and the same draw twice. -/

namespace Sys2Proof.Machine

@[simp] theorem exec_clearScreen (s : State) : exec .clearScreen s =
    .next (s.setDisplay (Vector.replicate 32 (Vector.replicate 64 false))).advance := rfl

/-- A write of the display keeps every frame that names it. -/
theorem Frame.setDisplay {T : Touch} {s t : State} (h : Frame T s t) (hT : T.display = true) (d : Display) :
    Frame T s (t.setDisplay d) :=
  { h with display := fun hfalse => absurd (hT.symm.trans hfalse) Bool.noConfusion }

/-- A write of DIRTY keeps every frame that names it. -/
theorem Frame.setDirty {T : Touch} {s t : State} (h : Frame T s t) (hT : T.dirty = true) (b : Bool) :
    Frame T s (t.setDirty b) :=
  { h with dirty := fun hfalse => absurd (hT.symm.trans hfalse) Bool.noConfusion }

/-- Settles O35: the display written is blank, and no other item is written. -/
theorem clearScreenClearsEveryPixel : Obligations.ClearScreenClearsEveryPixel := by
  intro s
  exact ⟨_, exec_clearScreen s, State.pixel_of_blank rfl, rfl, ((Frame.refl _ s).setDisplay rfl _).advance⟩

/-! ### One draw -/

/-- What draw-sprite draws on, with the collision seen: the rows of the sprite at its coordinates, drawn on the
display of the state (R142). -/
def State.drawn (s : State) (x y : RegIdx) (n : Nibble) : Canvas :=
  drawRows (s.reg x).toNat (s.reg y).toNat (s.bytesAtIndex n.toNat) ⟨s.disp, false⟩

theorem exec_drawSprite (x y : RegIdx) (n : Nibble) (s : State) : exec (.drawSprite x y n) s =
    s.ranged (encode (.drawSprite x y n)) n.toNat
      (((s.setReg flagReg (flagByte (s.drawn x y n).collision)).setDisplay (s.drawn x y n).disp).setDirty
        true).advance := rfl

/-- Each pixel of the drawn display is XORed with the sprite bit that lands on it (R141). -/
theorem State.drawn_pixel (s : State) (x y : RegIdx) (n : Nibble) {cx cy : Nat} (hx : cx < 64) (hy : cy < 32) :
    (s.drawn x y n).disp[cy][cx] = (s.pixel cx cy ^^ s.spriteBit x y n cx cy) := by
  rw [State.drawn, drawRows_pixel _ _ _ _ hx hy, State.pixel_eq s hx hy, State.spriteBit_eq]

/-- A pixel is lit when it is in bounds and 1. -/
theorem State.pixelAt_eq_some_true_iff (s : State) (cx cy : Nat) :
    pixelAt s.disp cx cy = some true ↔ cx < 64 ∧ cy < 32 ∧ s.pixel cx cy = true := by
  by_cases hb : cx < 64 ∧ cy < 32
  · rw [pixelAt_eq _ hb.1 hb.2, State.pixel_eq s hb.1 hb.2]
    simp [hb]
  · rw [pixelAt_none _ hb, State.pixel_out s hb]
    simp

/-- The draw collides when a lit pixel meets a sprite bit (R141). -/
theorem State.drawn_collision_iff (s : State) (x y : RegIdx) (n : Nibble) :
    (s.drawn x y n).collision = true ↔
      ∃ cx cy : Nat, cx < 64 ∧ cy < 32 ∧ s.pixel cx cy = true ∧ s.spriteBit x y n cx cy = true := by
  rw [State.drawn, drawRows_collision]
  simp [State.pixelAt_eq_some_true_iff, State.spriteBit_eq, and_assoc]

theorem flagByte_toNat_le_one (c : Bool) : (flagByte c).toNat ≤ 1 := by cases c <;> decide

theorem flagByte_toNat_eq_one_iff (c : Bool) : (flagByte c).toNat = 1 ↔ c = true := by cases c <;> decide

/-- Settles O36: the canvas is drawn from the state before VF is written, and VF then receives its collision. -/
theorem drawSpriteXorsThePixels : Obligations.DrawSpriteXorsThePixels := by
  intro x y n s hin
  have hexec := (exec_drawSprite x y n s).trans (State.ranged_ok _ _ hin)
  have hvf := congrArg BitVec.toNat (State.reg_setReg_self s flagReg (flagByte (s.drawn x y n).collision))
  refine ⟨_, hexec, fun cx cy hx hy => ?_, hvf.trans_le (flagByte_toNat_le_one _), ?_, rfl, rfl,
    ((((Frame.refl _ s).setReg (List.mem_singleton_self flagReg) _).setDisplay rfl _).setDirty rfl _).advance⟩
  · rw [State.pixel_eq _ hx hy]
    exact s.drawn_pixel x y n hx hy
  · rw [← State.drawn_collision_iff, ← flagByte_toNat_eq_one_iff]
    exact Eq.congr_left hvf

/-! ### The same draw twice -/

/-- The sprite bits depend on the coordinates, I and memory alone. -/
theorem State.spriteBit_congr {s t : State} {x y : RegIdx} (hx : t.reg x = s.reg x) (hy : t.reg y = s.reg y)
    (hi : t.i = s.i) (hmem : ∀ a, t.readByte a = s.readByte a) (n : Nibble) (cx cy : Nat) :
    t.spriteBit x y n cx cy = s.spriteBit x y n cx cy := by
  simp only [State.spriteBit, hx, hy, hi, hmem]

/-- Settles O37: the second draw has the same sprite bits as the first, and two XORs with one bit cancel; where the
pixels were dark the first draw lit them. -/
theorem drawingTwiceRestoresTheScreen : Obligations.DrawingTwiceRestoresTheScreen := by
  intro x y n s t h hx hy
  obtain ⟨hin, -⟩ := State.ranged_next ((exec_drawSprite x y n s).symm.trans h)
  obtain ⟨t', hfirst, hpixel, -, -, -, -, hframe⟩ := drawSpriteXorsThePixels x y n s hin
  obtain rfl : t = t' := Host.Outcome.next.inj (h.symm.trans hfirst)
  have hi : t.i = s.i := hframe.index rfl
  have hbit := State.spriteBit_congr hx hy hi (fun a => hframe.mem a List.not_mem_nil) n
  obtain ⟨u, hsecond, hpixel', -, hcollision, -⟩ := drawSpriteXorsThePixels x y n t (hi ▸ hin)
  refine ⟨u, hsecond, fun cx cy hcx hcy => ?_, fun hdark ⟨cx, cy, hcx, hcy, hsprite⟩ => ?_⟩
  · rw [hpixel' cx cy hcx hcy, hpixel cx cy hcx hcy, hbit, Bool.xor_assoc, Bool.xor_self, Bool.xor_false]
  · have hlit : t.pixel cx cy = true := by
      rw [hpixel cx cy hcx hcy, hdark cx cy hcx hcy hsprite, hsprite]
      rfl
    exact BitVec.eq_of_toNat_eq (hcollision.2 ⟨cx, cy, hcx, hcy, hlit, (hbit cx cy).trans hsprite⟩)

end Sys2Proof.Machine
end
